-- ==== Sys2Proof/Word.lean ====
section
/-!
DEFINITION. The widths of the CHIP-8 core (spec/00_scope.md R5): 8-bit data, 16-bit words, 4-bit register
numbers and key indices. Every quantity is unsigned (R6).
-/

namespace Sys2Proof

/-- A datum: the width of a general register and of a memory byte (R5 `XLEN`, R60). -/
abbrev Byte := BitVec 8

/-- The width of I, of PC, of a call-stack entry and of an instruction word (R5, R80). -/
abbrev Word := BitVec 16

/-- The number of a general register: the X or the Y field of an instruction word (R82). -/
abbrev RegNo := BitVec 4

/-- The index of a key, 0x0 to 0xF (R37, R44). -/
abbrev KeyIndex := BitVec 4

end Sys2Proof
end

