-- ==== Sys2Proof/Syntax.lean ====
section
/-!
DEFINITION. The 35 instructions of the opcode table (30_encoding.md R84), one constructor a row, in the table's order.
A constructor carries every field of its word, the ignored ones too (R88), so that no bit of an encoding is lost.
-/

namespace Sys2Proof

/-- One instruction (R84). Each docstring gives the row's pattern and its mnemonic. -/
inductive Instr where
  /-- `0NNN` SYS nnn: legacy machine call, ignored (R100). -/
  | sys (nnn : BitVec 12)
  /-- `00E0` CLS (R101). -/
  | cls
  /-- `00EE` RET (R102). -/
  | ret
  /-- `1NNN` JP nnn (R103). -/
  | jp (nnn : BitVec 12)
  /-- `2NNN` CALL nnn (R104). -/
  | call (nnn : BitVec 12)
  /-- `3XNN` SE Vx, nn (R105). -/
  | seImm (x : RegNo) (nn : Byte)
  /-- `4XNN` SNE Vx, nn (R106). -/
  | sneImm (x : RegNo) (nn : Byte)
  /-- `5XYN` SE Vx, Vy; `n` is ignored (R107, R88). -/
  | seReg (x y : RegNo) (n : BitVec 4)
  /-- `6XNN` LD Vx, nn (R120). -/
  | ldImm (x : RegNo) (nn : Byte)
  /-- `7XNN` ADD Vx, nn (R121). -/
  | addImm (x : RegNo) (nn : Byte)
  /-- `8XY0` LD Vx, Vy (R122). -/
  | ldReg (x y : RegNo)
  /-- `8XY1` OR Vx, Vy (R123). -/
  | orReg (x y : RegNo)
  /-- `8XY2` AND Vx, Vy (R124). -/
  | andReg (x y : RegNo)
  /-- `8XY3` XOR Vx, Vy (R131). -/
  | xorReg (x y : RegNo)
  /-- `8XY4` ADD Vx, Vy (R126). -/
  | addReg (x y : RegNo)
  /-- `8XY5` SUB Vx, Vy (R127). -/
  | subReg (x y : RegNo)
  /-- `8XY6` SHR Vx; `V[Y]` is not read (R128). -/
  | shr (x y : RegNo)
  /-- `8XY7` SUBN Vx, Vy (R129). -/
  | subnReg (x y : RegNo)
  /-- `8XYE` SHL Vx; `V[Y]` is not read (R130). -/
  | shl (x y : RegNo)
  /-- `9XYN` SNE Vx, Vy; `n` is ignored (R108, R88). -/
  | sneReg (x y : RegNo) (n : BitVec 4)
  /-- `ANNN` LD I, nnn (R140). -/
  | ldI (nnn : BitVec 12)
  /-- `BNNN` JP V0, nnn (R141). -/
  | jpV0 (nnn : BitVec 12)
  /-- `CXNN` RND Vx, nn (R142). -/
  | rnd (x : RegNo) (nn : Byte)
  /-- `DXYN` DRW Vx, Vy, n (R151). -/
  | drw (x y : RegNo) (n : BitVec 4)
  /-- `EX9E` SKP Vx (R160). -/
  | skp (x : RegNo)
  /-- `EXA1` SKNP Vx (R161). -/
  | sknp (x : RegNo)
  /-- `FX07` LD Vx, DT (R170). -/
  | ldVxDT (x : RegNo)
  /-- `FX0A` LD Vx, K (R171). -/
  | ldVxK (x : RegNo)
  /-- `FX15` LD DT, Vx (R172). -/
  | ldDTVx (x : RegNo)
  /-- `FX18` LD ST, Vx (R173). -/
  | ldSTVx (x : RegNo)
  /-- `FX1E` ADD I, Vx (R174). -/
  | addI (x : RegNo)
  /-- `FX29` LD F, Vx (R175). -/
  | ldF (x : RegNo)
  /-- `FX33` LD B, Vx (R176). -/
  | ldB (x : RegNo)
  /-- `FX55` LD [I], Vx (R178). -/
  | storeRegs (x : RegNo)
  /-- `FX65` LD Vx, [I] (R179). -/
  | loadRegs (x : RegNo)
deriving DecidableEq, Repr

end Sys2Proof
end

