-- ==== Sys2Proof/Machine/Flags.lean ====
section
/-!
DEFINITION. The flag values of 10_state.md R21 and the arithmetic laws of 41_load_alu.md R132. A flag is a whole byte,
0x00 or 0x01.
-/

namespace Sys2Proof.Machine

/-- A flag as VF receives it: the value is 0x00 or 0x01, all eight bits (R21). -/
def flagByte (b : Bool) : Byte := if b then 0x01 else 0x00

/-- The 9-bit sum `s <- a + b` of R126. -/
def wideSum (a b : Byte) : BitVec 9 := a.zeroExtend 9 + b.zeroExtend 9

/-- Carry of 8XY4: `zext_8(s[8])` (R126). -/
def carryFlag (a b : Byte) : Byte := flagByte ((wideSum a b).getLsbD 8)

/-- Result of 8XY4: `s[7:0]` (R126). -/
def sumByte (a b : Byte) : Byte := (wideSum a b).extractLsb' 0 8

/-- NOT borrow of `a - b`: 0x01 iff `a >= b` (R127, R129). -/
def noBorrowFlag (a b : Byte) : Byte := flagByte (decide (b ≤ a))

/-- The bit 8XY6 shifts out: `a[0]` (R128). -/
def shiftedOutLow (a : Byte) : Byte := flagByte (a.getLsbD 0)

/-- The bit 8XYE shifts out: `a[7]` (R130). -/
def shiftedOutHigh (a : Byte) : Byte := flagByte (a.getLsbD 7)

end Sys2Proof.Machine
end

