-- ==== Sys2Proof/Config.lean ====
section
/-!
DEFINITION. What lies outside the core's own state: the parameters the spec leaves OPEN (00_scope.md R5), what one
step samples from the environment (48_pacing_loop.md R210, 10_state.md R50), and the free values that stand for an
environment nobody has described.
-/

namespace Sys2Proof

/-- The parameters of one chip (R5): fixed for the machine, no step changes them. -/
structure Config where
  /-- `T60`: how many ticks of the time base make 1/60 second; a positive integer. -/
  t60 : Nat
  /-- `FONT_BASE`: the address of the first font byte, 0 to 0x1B0. -/
  fontBase : Word
  /-- The glyph table: 16 glyphs of 5 bytes (R274 asks a model to take it as configuration). -/
  font : Vector Byte 80
deriving DecidableEq, Repr

/-- The bounds R5 puts on the OPEN parameters. -/
def Config.wf (c : Config) : Bool :=
  decide (0 < c.t60) && decide (c.fontBase.toNat ≤ 0x1B0)

/-- What one step samples from the environment: the five inputs of an iteration (R210), and the `reset` line with what
the loader does while it is 1 (R50). -/
structure Env where
  /-- How many ticks after the earliest instant R212 allows (`FRAME_START + T60`) the pacing wait is released; while the
  core is held in reset, and when `reset` falls, how many ticks after the last time sample. -/
  late : Nat
  /-- `key_in[15:0]`: bit `k` is 1 while key `k` is held down (R43). -/
  keyIn : BitVec 16
  /-- The key-down event: `none` for `kd_valid = 0` (R44). -/
  kd : Option KeyIndex
  /-- `closed`: the adapter reports the display closed (R45). -/
  closed : Bool
  /-- `rnd[7:0]`: the random byte (R46). -/
  rnd : Byte
  /-- `reset` (R50): 1 in this step. -/
  reset : Bool
  /-- `load_fail` (R50), looked at only when `reset` falls (R275). -/
  loadFail : Bool
  /-- The program image as the loader has written it by this step, `rom[0]` first (R50, R273); looked at only while
  `reset` is 1 and when it falls. -/
  image : List Byte
deriving DecidableEq, Repr, Inhabited

/-- The environment of the spec's own test vectors (95_test_vectors.md, Conventions): no key, display open, `rnd` = 0,
no reset. -/
def Env.quiet : Env :=
  { late := 0, keyIn := 0, kd := none, closed := false, rnd := 0, reset := false, loadFail := false, image := [] }

/-- FREE VALUE (notes/assumptions/1.md). The environment's `n`-th sample where nothing in the state has decided it:
the spec constrains it in no way (R210, R270, U8 to U12), so it has no body. -/
opaque Config.freeEnv : Nat → Env

end Sys2Proof
end

