-- ==== Sys2Proof/Machine/Image.lean ====
section
/-!
DEFINITION. Memory as plain data (20_memory.md R60 to R63) and what it holds when reset is released
(70_reset_and_hazards.md R273, R274). A memory is a list of (address, byte) cells in one canonical form: addresses
strictly rising, each below 4096, no cell equal to what an unlisted address reads as.
-/

namespace Sys2Proof.Machine

/-- Glyphs 0 to 7 of the font (R274), row 0 of a glyph first. -/
def fontLow : List Byte :=
  [0xF0, 0x90, 0x90, 0x90, 0xF0] ++ [0x20, 0x60, 0x20, 0x20, 0x70] ++ [0xF0, 0x10, 0xF0, 0x80, 0xF0] ++
  [0xF0, 0x10, 0xF0, 0x10, 0xF0] ++ [0x90, 0x90, 0xF0, 0x10, 0x10] ++ [0xF0, 0x80, 0xF0, 0x10, 0xF0] ++
  [0xF0, 0x80, 0xF0, 0x90, 0xF0] ++ [0xF0, 0x10, 0x20, 0x40, 0x40]

/-- Glyphs 8 to F of the font (R274). -/
def fontHigh : List Byte :=
  [0xF0, 0x90, 0xF0, 0x90, 0xF0] ++ [0xF0, 0x90, 0xF0, 0x10, 0xF0] ++ [0xF0, 0x90, 0xF0, 0x90, 0x90] ++
  [0xE0, 0x90, 0xE0, 0x90, 0xE0] ++ [0xF0, 0x80, 0x80, 0x80, 0xF0] ++ [0xE0, 0x90, 0x90, 0x90, 0xE0] ++
  [0xF0, 0x80, 0xF0, 0x80, 0xF0] ++ [0xF0, 0x80, 0xF0, 0x80, 0x80]

/-- The table of R274: 16 glyphs of 5 bytes. -/
def standardFont : Vector Byte 80 := ⟨⟨fontLow ++ fontHigh⟩, rfl⟩

/-- The parameters State.reset is given (notes/assumptions/3.md): the conventional font address of R5, the table of
R274, and a time base of 60 ticks a second. No statement rests on them. -/
def conventionalConfig : Config := { t60 := 1, fontBase := 0x0050, font := standardFont }

/-- The number of bytes of memory (R5 `MEM_SIZE`, R60). -/
abbrev memSize : Nat := 4096

/-- `PROG_BASE` (R5): the address of the first program byte and the reset value of PC. -/
abbrev progBase : Nat := 0x200

/-- What an address holds at reset before a program is loaded (R273): the font, and 0x00 elsewhere. It is what an
unlisted address reads as. -/
def initialByte (c : Config) (a : Nat) : Byte :=
  if h : c.fontBase.toNat ≤ a ∧ a - c.fontBase.toNat < 80 then c.font[a - c.fontBase.toNat]'h.2 else 0x00

/-- A memory: its listed cells, in rising order of address. -/
abbrev Memory := List Host.Cell

/-- The byte at a (reduced) address (R62). -/
def memoryRead (c : Config) : Memory → Nat → Byte
  | [], a => initialByte c a
  | (b, v) :: m, a => if b = a then v else memoryRead c m a

/-- List the cell `(a, v)`, in its place, instead of any other cell of address `a`. -/
def memoryInsert : Memory → Nat → Byte → Memory
  | [], a, v => [(a, v)]
  | (b, w) :: m, a, v =>
    if a < b then (a, v) :: (b, w) :: m
    else if a = b then (a, v) :: m
    else (b, w) :: memoryInsert m a v

/-- Take every cell of address `a` off the list (a canonical list holds at most one). -/
def memoryErase : Memory → Nat → Memory
  | [], _ => []
  | (b, w) :: m, a => if a = b then memoryErase m a else (b, w) :: memoryErase m a

/-- Store a byte at a (reduced) address (R63), keeping the canonical form: the reset contents are not listed. -/
def memoryWrite (c : Config) (m : Memory) (a : Nat) (v : Byte) : Memory :=
  if v = initialByte c a then memoryErase m a else memoryInsert m a v

/-- The canonical form, for the cells at addresses `lo` and above. -/
def memoryWfFrom (c : Config) : Nat → Memory → Bool
  | _, [] => true
  | lo, (b, v) :: m =>
    decide (lo ≤ b) && decide (b < memSize) && decide (v ≠ initialByte c b) && memoryWfFrom c (b + 1) m

/-- The canonical form of a memory: rising addresses below 4096, no cell equal to the reset contents. -/
def Memory.wf (c : Config) (m : Memory) : Bool := memoryWfFrom c 0 m

/-- Copy bytes into memory from address `a` on, one byte an address, each address reduced (R273, R61). -/
def memoryLoad (c : Config) : Memory → Nat → List Byte → Memory
  | m, _, [] => m
  | m, a, b :: bs => memoryLoad c (memoryWrite c m (a % memSize) b) (a + 1) bs

end Sys2Proof.Machine
end

