-- ==== Sys2Proof/Machine/State.lean ====
section
/-!
DEFINITION. The state of the CHIP-8 core as plain data (10_state.md): every element of the reset table R52, the inputs
and outputs that are state (R46, R47, R50), the OPEN parameters (00_scope.md R5), and the two fields of the model's
own that stand for the environment (notes/assumptions/1.md).
-/

namespace Sys2Proof.Machine

/-- MODE (R38): the run state of the loop. The code 3 does not exist. -/
inductive Mode where
  /-- Each iteration fetches and executes one instruction. -/
  | run
  /-- An FX0A has executed and its key has not arrived. -/
  | waitKey
  /-- The run has ended; nothing changes until reset. -/
  | halt
deriving DecidableEq, Repr

/-- HALT_CAUSE (R39): the causes of R240. The codes 6 and 7 do not exist. -/
inductive Cause where
  /-- Code 0: not halted. -/
  | none
  /-- Code 1 (R241). -/
  | illegalInstruction
  /-- Code 2 (R242). -/
  | stackOverflow
  /-- Code 3 (R243). -/
  | stackUnderflow
  /-- Code 4 (R245). -/
  | displayClosed
  /-- Code 5 (R246). -/
  | loadFailure
deriving DecidableEq, Repr

/-- A timer (R34, R35): the count and the instant of the last set or decrement. -/
structure Timer where
  val : Byte
  base : Nat
deriving DecidableEq, Repr

/-- The halt record (R39). -/
structure HaltRecord where
  cause : Cause
  word : Word
  pc : Word
deriving DecidableEq, Repr

/-- A display event (R47): column `x`, row `y`. -/
inductive Event where
  | pixelSet (x : BitVec 6) (y : BitVec 5)
  | pixelClear (x : BitVec 6) (y : BitVec 5)
  | clearAll
deriving DecidableEq, Repr

/-- The framebuffer (R36): 32 rows of 64 cells; bit `x` of row `y` is the cell of column `x`. -/
abbrev Framebuffer := Vector (BitVec 64) 32

/-- Why the model stops where the core would go on. -/
inductive Fault where
  /-- Raised by CALL and RET where SP holds 17 to 31, a stack level that does not exist: R31 says those values are never
  reached. Safe: no run from reset comes there (notes/assumptions/6.md). -/
  | spOutOfRange
deriving DecidableEq, Repr

/-- Why an instruction has no meaning. -/
inductive Refusal where
  /-- Raised by exec for an instruction that is not modelled yet; safe. No instruction is left so. -/
  | notModelled (mnemonic : String)
deriving DecidableEq, Repr

/-- The whole state. -/
structure State where
  /-- The OPEN parameters (R5); no step changes them. -/
  cfg : Config
  /-- V[0] to V[15]; VF is V[15] (R20, R21). -/
  v : Vector Byte 16
  /-- I (R24). -/
  i : Word
  /-- PC (R22). -/
  pc : Word
  /-- STACK[0] to STACK[15] (R30). -/
  stack : Vector Word 16
  /-- SP: the number of return addresses held, 0 to 16 (R31). -/
  sp : BitVec 5
  /-- The delay timer (R34). -/
  dt : Timer
  /-- The sound timer (R35). -/
  st : Timer
  /-- The framebuffer (R36). -/
  fb : Framebuffer
  /-- KEYS: bit `k` is 1 while key `k` is pressed, as last sampled (R37). -/
  keys : BitVec 16
  /-- MODE (R38). -/
  mode : Mode
  /-- WAITX: the X field of the FX0A being waited for (R38). -/
  waitX : RegNo
  /-- The halt record (R39). -/
  halt : HaltRecord
  /-- FRAME_START: the release of the last iteration's wait (R40). -/
  frameStart : Nat
  /-- TNOW: the time sample of the current iteration (R40). -/
  tnow : Nat
  /-- MEM (R41, R60). -/
  mem : Memory
  /-- The byte on the `rnd` input in the current iteration (R46). -/
  rnd : Byte
  /-- The display events of the run, oldest first (R47). -/
  events : List Event
  /-- The core is held in reset: `reset` was 1 in the last step and has not fallen (R50, R270). -/
  held : Bool
  /-- The model's own: the environment samples of the coming steps that are already decided, next first. -/
  inputs : List Env
  /-- The model's own: how many environment samples have been taken, the index of the free value. -/
  draws : Nat
deriving DecidableEq, Repr

/-- The machine when `reset` has been released with an empty program (R52, R270, R273 with `len` = 0), at
`t_reset` = 0 and with the parameters of notes/assumptions/3.md. -/
def State.reset : State where
  cfg := conventionalConfig
  v := Vector.replicate 16 0x00
  i := 0x0000
  pc := 0x0200
  stack := Vector.replicate 16 0x0000
  sp := 0
  dt := { val := 0x00, base := 0 }
  st := { val := 0x00, base := 0 }
  fb := Vector.replicate 32 0
  keys := 0x0000
  mode := .run
  waitX := 0x0
  halt := { cause := .none, word := 0x0000, pc := 0x0000 }
  frameStart := 0
  tnow := 0
  mem := []
  rnd := 0x00
  events := []
  held := false
  inputs := []
  draws := 0

end Sys2Proof.Machine
end

