-- ==== Sys2Proof/Machine/Operands.lean ====
section
/-!
DEFINITION. The operand forms (30_encoding.md R83): a register named by X or Y, an immediate, and the low four bits of
a register where an instruction selects one of sixteen keys or digits (44_keys.md R162, 45_misc.md R175).
-/

namespace Sys2Proof.Machine

/-- `V[r]` (R7, R20). -/
def State.getV (s : State) (r : RegNo) : Byte := s.v[r.toNat]

/-- `V[r] <- b` (R7, R20): every register can be written, VF too. -/
def State.setV (s : State) (r : RegNo) (b : Byte) : State :=
  { s with v := s.v.set r.toNat b }

/-- The number of VF (R21). -/
def vf : RegNo := 0xF

/-- `zext_16(NNN)` (R83). -/
def zext16 (nnn : BitVec 12) : Word := nnn.zeroExtend 16

/-- `VX[3:0]`: the key or the digit a register selects (R162, R175). -/
def lowNibble (b : Byte) : BitVec 4 := b.extractLsb' 0 4

/-- `zext_8(k)` of a key index (R218). -/
def zext8 (k : KeyIndex) : Byte := k.zeroExtend 8

end Sys2Proof.Machine
end

