-- ==== Sys2Proof/Machine/Ops.lean ====
section
/-!
DEFINITION. The named operations over the state: program counter, memory port, call stack, display, timers, raising
(the only trap entry of the core, 60_exceptions.md R244) and, beside it, reset (the only way out of HALT, R251): held
and released; the sampling of the inputs, and the outputs.
-/

namespace Sys2Proof.Machine

/-- `PC <- target` (R22): all 16 bits are kept. -/
def State.setPc (s : State) (target : Word) : State := { s with pc := target }

/-- `I <- value` (R24): all 16 bits are kept. -/
def State.setI (s : State) (value : Word) : State := { s with i := value }

/-- The advance of a fetch: `PC <- (PC + 2) mod 65536` (R23). -/
def State.advance (s : State) : State := s.setPc (s.pc + 2)

/-- A skip: a second advance if the condition holds (R23, R110). -/
def State.skipIf (s : State) (c : Bool) : State := s.setPc (if c then s.pc + 2 else s.pc)

/-- `V[15] <- f`, then `V[X] <- r`: the flag first, the result second (R125). -/
def State.flagThenResult (s : State) (x : RegNo) (f r : Byte) : State := (s.setV vf f).setV x r

/-- The effective address: `addr mod 4096` (R61). -/
def effectiveAddress (addr : Nat) : Nat := addr % memSize

/-- `MemRead(addr, 1)` (R62). -/
def State.memRead (s : State) (addr : Nat) : Byte := memoryRead s.cfg s.mem (effectiveAddress addr)

/-- `MemWrite(addr, 1, b)` (R63). -/
def State.memWrite (s : State) (addr : Nat) (b : Byte) : State :=
  { s with mem := memoryWrite s.cfg s.mem (effectiveAddress addr) b }

/-- The addressing mode: register-indirect through I with an ascending offset (R177); the reduction is the port's. -/
abbrev State.indexed (s : State) (k : Nat) : Nat := s.i.toNat + k

/-- `Fetch(pc)` (R64): high byte first. -/
def State.fetch (s : State) : Word :=
  wordOfBytes (s.memRead s.pc.toNat) (s.memRead (s.pc.toNat + 1))

/-- Store `V[0]` to `V[n-1]` at I, in ascending order (R178). -/
def State.storeBlock (s : State) : Nat → State
  | 0 => s
  | n + 1 => (s.storeBlock n).memWrite (s.indexed n) (s.getV (BitVec.ofNat 4 n))

/-- Load `V[0]` to `V[n-1]` from I, in ascending order (R179). -/
def State.loadBlock (s : State) : Nat → State
  | 0 => s
  | n + 1 => (s.loadBlock n).setV (BitVec.ofNat 4 n) (s.memRead (s.indexed n))

/-- `STACK_DEPTH` (R5, R30). -/
abbrev stackDepth : Nat := 16

/-- `Push(v)` on a stack that is not full (R32); none where the slot does not exist. -/
def State.push (s : State) (a : Word) : Option State :=
  if h : s.sp.toNat < 16 then some { s with stack := s.stack.set s.sp.toNat a h, sp := s.sp + 1 } else none

/-- `Pop()` on a stack that is not empty (R33): the address and the state without it; none where the slot does not
exist. The popped entry keeps its bits. -/
def State.pop (s : State) : Option (Word × State) :=
  if h : 1 ≤ s.sp.toNat ∧ s.sp.toNat ≤ 16 then
    some (s.stack[s.sp.toNat - 1]'(by omega), { s with sp := s.sp - 1 })
  else none

/-- `FB[y][x]` (R36). -/
def fbGet (fb : Framebuffer) (x : BitVec 6) (y : BitVec 5) : Bool := fb[y.toNat].getLsbD x.toNat

/-- `FB[y][x] <- b` (R36). -/
def fbPut (fb : Framebuffer) (x : BitVec 6) (y : BitVec 5) (b : Bool) : Framebuffer :=
  let mask : BitVec 64 := 1#64 <<< x.toNat
  fb.set y.toNat (if b then fb[y.toNat] ||| mask else fb[y.toNat] &&& ~~~mask)

/-- The all-clear framebuffer (R52, R101). -/
def fbClear : Framebuffer := Vector.replicate 32 0

/-- `emit e` (R47): the event joins the run's events. -/
def State.emit (s : State) (e : Event) : State := { s with events := s.events ++ [e] }

/-- `FB <- fb` (R36). -/
def State.setFb (s : State) (fb : Framebuffer) : State := { s with fb := fb }

/-- The colliding half of R151 for one sprite bit that is 1: VF is set, the cell falls, and the fall is emitted. -/
def State.clearPixel (s : State) (x : BitVec 6) (y : BitVec 5) : State :=
  ((s.setV vf 0x01).setFb (fbPut s.fb x y false)).emit (.pixelClear x y)

/-- The other half: the cell rises and the rise is emitted. -/
def State.lightPixel (s : State) (x : BitVec 6) (y : BitVec 5) : State :=
  (s.setFb (fbPut s.fb x y true)).emit (.pixelSet x y)

/-- One sprite bit that is 1 (R151): the cell is inverted. -/
def State.togglePixel (s : State) (cell : BitVec 6 × BitVec 5) : State :=
  if fbGet s.fb cell.1 cell.2 then s.clearPixel cell.1 cell.2 else s.lightPixel cell.1 cell.2

/-- The cells (column, row) under the 1 bits of sprite row `row`, whose byte is `b`, in loop order: the most
significant bit first, each axis taken modulo the grid (R150, R151). A sprite bit of 0 changes nothing. -/
def spriteCells (x0 y0 : Byte) (row : Nat) (b : Byte) : List (BitVec 6 × BitVec 5) :=
  ((List.range 8).filter (fun bit => b.getLsbD (7 - bit))).map
    (fun bit => (BitVec.ofNat 6 (x0.toNat + bit), BitVec.ofNat 5 (y0.toNat + row)))

/-- Sprite row `row` (R151): its byte is read at `I + row`, its 1 bits are drawn. -/
def State.drawRow (s : State) (x0 y0 : Byte) (row : Nat) : State :=
  (spriteCells x0 y0 row (s.memRead (s.indexed row))).foldl State.togglePixel s

/-- Sprite rows 0 to `n - 1`, in ascending order (R151). -/
def State.drawRows (s : State) (x0 y0 : Byte) : Nat → State
  | 0 => s
  | n + 1 => (s.drawRows x0 y0 n).drawRow x0 y0 n

/-- `T.set(v, t)` (R191). -/
def timerSet (v : Byte) (t : Nat) : Timer := { val := v, base := t }

/-- `T.update(t)` (R192); `t60` is T60. -/
def timerUpdate (t60 : Nat) (t : Nat) (tm : Timer) : Timer :=
  if tm.val ≠ 0 ∧ tm.base + t60 ≤ t then { val := tm.val - 1, base := t } else tm

/-- `DT <- tm` (R34). -/
def State.setDT (s : State) (tm : Timer) : State := { s with dt := tm }

/-- `ST <- tm` (R35). -/
def State.setST (s : State) (tm : Timer) : State := { s with st := tm }

/-- Step (f): both timers are updated with the iteration's time sample (R217). -/
def State.updateTimers (s : State) : State :=
  (s.setDT (timerUpdate s.cfg.t60 s.tnow s.dt)).setST (timerUpdate s.cfg.t60 s.tnow s.st)

/-- `MODE <- m` and `WAITX <- x` (R38). -/
def State.setWait (s : State) (m : Mode) (x : RegNo) : State := { s with mode := m, waitX := x }

/-- `raise Cause(w)` (R244): TAKING AN EXCEPTION. Only MODE and the halt record are written. -/
def State.raise (s : State) (c : Cause) (w pc0 : Word) : State :=
  { s with mode := .halt, halt := { cause := c, word := w, pc := pc0 } }

/-- A fault of an instruction (R244): `pc0` is where its word was fetched from, two below the advanced PC. -/
def State.raiseInstr (s : State) (c : Cause) (w : Word) : State := s.raise c w (s.pc - 2)

/-- A cause that has no instruction (R244): the word is 0x0000 and the address is PC. -/
def State.raiseBare (s : State) (c : Cause) : State := s.raise c 0x0000 s.pc

/-- The longest program image that fits from 0x200 to 0xFFF (R273). -/
abbrev maxRom : Nat := 3584

/-- The loader refuses an image that does not fit and signals `load_fail` (R273, R275). -/
def loadFails (e : Env) : Bool := e.loadFail || decide (maxRom < e.image.length)

/-- MEM with the font, the program image `rom` from 0x200 on and 0x00 elsewhere (R273); an image that does not fit is
not written. -/
def imageMemory (c : Config) (rom : List Byte) : Memory :=
  if maxRom < rom.length then [] else memoryLoad c [] progBase rom

/-- The reset values (R52), at a time sample `e.late` ticks after the last one, with the image the loader has written. -/
def State.resetValues (s : State) (e : Env) : State where
  cfg := s.cfg
  v := Vector.replicate 16 0x00
  i := 0x0000
  pc := 0x0200
  stack := Vector.replicate 16 0x0000
  sp := 0
  dt := { val := 0x00, base := s.tnow + e.late }
  st := { val := 0x00, base := s.tnow + e.late }
  fb := fbClear
  keys := 0x0000
  mode := .run
  waitX := 0x0
  halt := { cause := .none, word := 0x0000, pc := 0x0000 }
  frameStart := s.tnow + e.late
  tnow := s.tnow + e.late
  mem := imageMemory s.cfg e.image
  rnd := 0x00
  events := []
  held := false
  inputs := s.inputs
  draws := s.draws

/-- `reset` is 1 (R270): whatever the mode was, the core idles at the reset values while the loader writes memory. -/
def State.hold (s : State) (e : Env) : State := { s.resetValues e with held := true }

/-- `reset` falls (R270): `t_reset` is sampled and the core begins iterating, or halts with cause 5 (R275). -/
def State.release (s : State) (e : Env) : State :=
  if loadFails e then (s.resetValues e).raiseBare .loadFailure else s.resetValues e

/-- The environment sample the next step takes (R210, R50): the next decided one, else a free value. -/
def State.sample (s : State) : Env :=
  match s.inputs with
  | e :: _ => e
  | [] => Config.freeEnv s.draws

/-- The model's own count of the samples taken moves on; nothing of the core changes. -/
def State.countSample (s : State) : State := { s with inputs := s.inputs.tail, draws := s.draws + 1 }

/-- Steps (a) to (c) with the sample `e` (R212, R213): the wait is released at `FRAME_START + T60` or later, TNOW and
FRAME_START take that instant, KEYS takes the key lines, and the random byte of the iteration is on its lines. -/
def State.takeSample (s : State) (e : Env) : State :=
  { s with
    tnow := s.frameStart + s.cfg.t60 + e.late
    frameStart := s.frameStart + s.cfg.t60 + e.late
    keys := e.keyIn
    rnd := e.rnd }

/-- Step (e) in `MODE = WAITKEY` (R218): a sampled key-down event ends the wait. -/
def State.receiveKey (s : State) : Option KeyIndex → State
  | some k => (s.setV s.waitX (zext8 k)).setWait .run s.waitX
  | none => s

/-- `tone` (R48, R196). -/
def State.tone (s : State) : Bool := decide (s.st.val ≠ 0) && decide (s.mode ≠ .halt)

/-- `dt_nonzero` (R48, R196). -/
def State.dtNonzero (s : State) : Bool := decide (s.dt.val ≠ 0)

/-- `halted` (R49). -/
def State.halted (s : State) : Bool := decide (s.mode = .halt)

/-- The code of a mode (R38). -/
def Mode.code : Mode → BitVec 2
  | .run => 0
  | .waitKey => 1
  | .halt => 2

/-- The code of a cause, as `halt_cause` presents it (R49, R240). -/
def Cause.code : Cause → BitVec 3
  | .none => 0
  | .illegalInstruction => 1
  | .stackOverflow => 2
  | .stackUnderflow => 3
  | .displayClosed => 4
  | .loadFailure => 5

/-- The decided environment samples, with the next one neither closing the display nor raising `reset`; where none is
decided, a quiet one
(95_test_vectors.md, Conventions). -/
def openNext : List Env → List Env
  | [] => [Env.quiet]
  | e :: es => { e with closed := false, reset := false } :: es

/-- Place a word where the next iteration fetches, and let that iteration fetch (notes/assumptions/13.md): the loader's
part, MODE = RUN, reset released, display open. -/
def State.placeWord (s : State) (w : Word) : State :=
  { ((s.memWrite s.pc.toNat (highByte w)).memWrite (s.pc.toNat + 1) (lowByte w)) with
    mode := .run
    held := false
    inputs := openNext s.inputs }

end Sys2Proof.Machine
end

