-- ==== Sys2Proof/Machine/Draw.lean ====
section
/-!
DEFINITION. Family D: the framebuffer XOR engine (43_draw.md).
-/

namespace Sys2Proof.Machine

/-- DXYN (R151): the coordinates are latched, VF is cleared, then the N sprite rows are drawn. -/
def execDrw (x y : RegNo) (n : BitVec 4) (s : State) : Host.Outcome State Fault Refusal :=
  .next ((s.setV vf 0x00).drawRows (s.getV x) (s.getV y) n.toNat)

end Sys2Proof.Machine
end

