-- ==== Sys2Proof/Machine/Flow.lean ====
section
/-!
DEFINITION. Families 0 to 5 and 9: clear, return, jump, call, skips (40_flow.md). PC has already advanced past the
instruction (R109).
-/

namespace Sys2Proof.Machine

/-- 0NNN (R100): nothing. -/
def execSys (_nnn : BitVec 12) (s : State) : Host.Outcome State Fault Refusal := .next s

/-- 00E0 (R101): every cell is cleared and one ClearAll is emitted. -/
def execCls (s : State) : Host.Outcome State Fault Refusal :=
  .next ((s.setFb fbClear).emit .clearAll)

/-- 00EE (R102): StackUnderflow on an empty stack, else the popped address, unmasked. -/
def execRet (s : State) : Host.Outcome State Fault Refusal :=
  if s.sp = 0 then .next (s.raiseInstr .stackUnderflow 0x00EE)
  else match s.pop with
    | some (a, t) => .next (t.setPc a)
    | none => .fault .spOutOfRange

/-- 1NNN (R103). -/
def execJp (nnn : BitVec 12) (s : State) : Host.Outcome State Fault Refusal :=
  .next (s.setPc (zext16 nnn))

/-- 2NNN (R104): StackOverflow when 16 addresses are held, else the advanced PC is pushed and PC takes NNN. -/
def execCall (nnn : BitVec 12) (s : State) : Host.Outcome State Fault Refusal :=
  if s.sp.toNat = stackDepth then .next (s.raiseInstr .stackOverflow (wordNNN 0x2 nnn))
  else match s.push s.pc with
    | some t => .next (t.setPc (zext16 nnn))
    | none => .fault .spOutOfRange

/-- 3XNN (R105). -/
def execSeImm (x : RegNo) (nn : Byte) (s : State) : Host.Outcome State Fault Refusal :=
  .next (s.skipIf (decide (s.getV x = nn)))

/-- 4XNN (R106). -/
def execSneImm (x : RegNo) (nn : Byte) (s : State) : Host.Outcome State Fault Refusal :=
  .next (s.skipIf (decide (s.getV x ≠ nn)))

/-- 5XYN (R107); the low nibble is not examined (R88). -/
def execSeReg (x y : RegNo) (_n : BitVec 4) (s : State) : Host.Outcome State Fault Refusal :=
  .next (s.skipIf (decide (s.getV x = s.getV y)))

/-- 9XYN (R108); the low nibble is not examined (R88). -/
def execSneReg (x y : RegNo) (_n : BitVec 4) (s : State) : Host.Outcome State Fault Refusal :=
  .next (s.skipIf (decide (s.getV x ≠ s.getV y)))

end Sys2Proof.Machine
end

