-- ==== Sys2Proof/Machine/IndexJumpRandom.lean ====
section
/-!
DEFINITION. Families A, B and C: set index, jump with offset, random (42_index_jump_random.md).
-/

namespace Sys2Proof.Machine

/-- ANNN (R140). -/
def execLdI (nnn : BitVec 12) (s : State) : Host.Outcome State Fault Refusal :=
  .next (s.setI (zext16 nnn))

/-- BNNN (R141): the offset is V0 whatever `w[11:8]` is; the sum is not reduced to 12 bits. -/
def execJpV0 (nnn : BitVec 12) (s : State) : Host.Outcome State Fault Refusal :=
  .next (s.setPc (zext16 nnn + (s.getV 0x0).zeroExtend 16))

/-- CXNN (R142): the iteration's random byte, a free input, AND NN. -/
def execRnd (x : RegNo) (nn : Byte) (s : State) : Host.Outcome State Fault Refusal :=
  .next (s.setV x (s.rnd &&& nn))

end Sys2Proof.Machine
end

