-- ==== Sys2Proof/Machine/Keys.lean ====
section
/-!
DEFINITION. Family E: the key skips (44_keys.md). Both read the latch KEYS, at the index `VX[3:0]` (R162).
-/

namespace Sys2Proof.Machine

/-- `KEYS[k]` for the key a register selects (R162). -/
def State.keyPressed (s : State) (x : RegNo) : Bool := s.keys.getLsbD (lowNibble (s.getV x)).toNat

/-- EX9E (R160). -/
def execSkp (x : RegNo) (s : State) : Host.Outcome State Fault Refusal :=
  .next (s.skipIf (s.keyPressed x))

/-- EXA1 (R161). -/
def execSknp (x : RegNo) (s : State) : Host.Outcome State Fault Refusal :=
  .next (s.skipIf (!s.keyPressed x))

end Sys2Proof.Machine
end

