-- ==== Sys2Proof/Machine/LoadAlu.lean ====
section
/-!
DEFINITION. Families 6, 7 and 8: load, add immediate, ALU (41_load_alu.md). Operands are latched from the pre-state;
the flag-producing operations write VF first and VX second (R125).
-/

namespace Sys2Proof.Machine

/-- 6XNN (R120). -/
def execLdImm (x : RegNo) (nn : Byte) (s : State) : Host.Outcome State Fault Refusal :=
  .next (s.setV x nn)

/-- 7XNN (R121): modulo 256, no flag. -/
def execAddImm (x : RegNo) (nn : Byte) (s : State) : Host.Outcome State Fault Refusal :=
  .next (s.setV x (s.getV x + nn))

/-- 8XY0 (R122). -/
def execLdReg (x y : RegNo) (s : State) : Host.Outcome State Fault Refusal :=
  .next (s.setV x (s.getV y))

/-- 8XY1 (R123): VF is not written as a flag. -/
def execOrReg (x y : RegNo) (s : State) : Host.Outcome State Fault Refusal :=
  .next (s.setV x (s.getV x ||| s.getV y))

/-- 8XY2 (R124). -/
def execAndReg (x y : RegNo) (s : State) : Host.Outcome State Fault Refusal :=
  .next (s.setV x (s.getV x &&& s.getV y))

/-- 8XY3 (R131). -/
def execXorReg (x y : RegNo) (s : State) : Host.Outcome State Fault Refusal :=
  .next (s.setV x (s.getV x ^^^ s.getV y))

/-- 8XY4 (R126): the 9-bit sum gives the carry and the result. -/
def execAddReg (x y : RegNo) (s : State) : Host.Outcome State Fault Refusal :=
  .next (s.flagThenResult x (carryFlag (s.getV x) (s.getV y)) (sumByte (s.getV x) (s.getV y)))

/-- 8XY5 (R127). -/
def execSubReg (x y : RegNo) (s : State) : Host.Outcome State Fault Refusal :=
  .next (s.flagThenResult x (noBorrowFlag (s.getV x) (s.getV y)) (s.getV x - s.getV y))

/-- 8XY6 (R128): VX is shifted in place, VY is not read. -/
def execShr (x _y : RegNo) (s : State) : Host.Outcome State Fault Refusal :=
  .next (s.flagThenResult x (shiftedOutLow (s.getV x)) (s.getV x >>> 1))

/-- 8XY7 (R129): the operands exchanged, the destination still VX. -/
def execSubnReg (x y : RegNo) (s : State) : Host.Outcome State Fault Refusal :=
  .next (s.flagThenResult x (noBorrowFlag (s.getV y) (s.getV x)) (s.getV y - s.getV x))

/-- 8XYE (R130): VX is shifted in place, VY is not read. -/
def execShl (x _y : RegNo) (s : State) : Host.Outcome State Fault Refusal :=
  .next (s.flagThenResult x (shiftedOutHigh (s.getV x)) (s.getV x <<< 1))

end Sys2Proof.Machine
end

