-- ==== Sys2Proof/Machine/Misc.lean ====
section
/-!
DEFINITION. Family F: timers, key wait, index arithmetic, font, BCD, block transfer (45_misc.md).
-/

namespace Sys2Proof.Machine

/-- FX07 (R170). -/
def execLdVxDT (x : RegNo) (s : State) : Host.Outcome State Fault Refusal :=
  .next (s.setV x s.dt.val)

/-- FX0A (R171): the run is suspended; the key-down event of a later iteration ends the wait (R218). -/
def execLdVxK (x : RegNo) (s : State) : Host.Outcome State Fault Refusal :=
  .next (s.setWait .waitKey x)

/-- FX15 (R172). -/
def execLdDTVx (x : RegNo) (s : State) : Host.Outcome State Fault Refusal :=
  .next (s.setDT (timerSet (s.getV x) s.tnow))

/-- FX18 (R173). -/
def execLdSTVx (x : RegNo) (s : State) : Host.Outcome State Fault Refusal :=
  .next (s.setST (timerSet (s.getV x) s.tnow))

/-- FX1E (R174): modulo 65536, no flag. -/
def execAddI (x : RegNo) (s : State) : Host.Outcome State Fault Refusal :=
  .next (s.setI (s.i + (s.getV x).zeroExtend 16))

/-- FX29 (R175): glyph `d` is at `FONT_BASE + 5 * d`. -/
def execLdF (x : RegNo) (s : State) : Host.Outcome State Fault Refusal :=
  .next (s.setI (s.cfg.fontBase + 5 * (lowNibble (s.getV x)).zeroExtend 16))

/-- The decimal digits of FX33 (R176): hundreds, tens, ones. -/
def bcdDigit (b : Byte) (power : Nat) : Byte := BitVec.ofNat 8 (b.toNat / power % 10)

/-- FX33 (R176): three bytes at I, the hundreds at the lowest address; I unchanged. -/
def execLdB (x : RegNo) (s : State) : Host.Outcome State Fault Refusal :=
  .next (((s.memWrite (s.indexed 0) (bcdDigit (s.getV x) 100)).memWrite (s.indexed 1)
    (bcdDigit (s.getV x) 10)).memWrite (s.indexed 2) (bcdDigit (s.getV x) 1))

/-- FX55 (R178): V0 to VX, inclusive; I unchanged. -/
def execStoreRegs (x : RegNo) (s : State) : Host.Outcome State Fault Refusal :=
  .next (s.storeBlock (x.toNat + 1))

/-- FX65 (R179): V0 to VX, inclusive; I unchanged. -/
def execLoadRegs (x : RegNo) (s : State) : Host.Outcome State Fault Refusal :=
  .next (s.loadBlock (x.toNat + 1))

end Sys2Proof.Machine
end

