-- ==== Sys2Proof/Machine/Loop.lean ====
section
/-!
DEFINITION. The iteration of the pacing loop (48_pacing_loop.md R211), steps (c) to (f), in the order of R211
(90_conflicts.md C1): the closed check, the dispatch, the timers; and before them the `reset` line
(70_reset_and_hazards.md R270).
-/

namespace Sys2Proof.Machine

/-- What follows an executed instruction (R211): step (f), unless the instruction halted the core. -/
def State.afterInstr (s : State) : State :=
  match s.mode with
  | .halt => s
  | .run | .waitKey => s.updateTimers

/-- The end of an iteration whose instruction answered `o`. -/
def finishIteration : Host.Outcome State Fault Refusal → Host.Outcome State Fault Refusal
  | .next s => .next s.afterInstr
  | .fault r => .fault r
  | .refused r => .refused r

/-- Step (e) in `MODE = RUN` after the fetch of `w` (R215): the decoded instruction, on the advanced PC, or
IllegalInstruction (R241). -/
def State.dispatch (s : State) (w : Word) : Host.Outcome State Fault Refusal :=
  match decodeWord w with
  | .ok i => finishIteration (exec i s.advance)
  | .error _ => .next (s.advance.raiseInstr .illegalInstruction w)

/-- Steps (e) and (f) by mode (R215, R218, R222): `s` has been sampled; `kd` is the sampled key-down event. -/
def State.runMode (s : State) (kd : Option KeyIndex) : Host.Outcome State Fault Refusal :=
  match s.mode with
  | .run => s.dispatch s.fetch
  | .waitKey => .next (s.receiveKey kd).updateTimers
  | .halt => .next s

/-- `Iterate(env)` (R210, R211): HALT is absorbing (R222), DisplayClosed comes before the fetch (R214, R248). -/
def State.iterate (s : State) (e : Env) : Host.Outcome State Fault Refusal :=
  match s.mode with
  | .halt => .next s
  | .run | .waitKey =>
    if e.closed then .next ((s.takeSample e).raiseBare .displayClosed)
    else (s.takeSample e).runMode e.kd

/-- What the core does with the sample `e`: `reset` comes before everything else, in any mode (R270). -/
def State.react (s : State) (e : Env) : Host.Outcome State Fault Refusal :=
  if e.reset then .next (s.hold e)
  else if s.held then .next (s.release e)
  else s.iterate e

end Sys2Proof.Machine
end

