-- ==== Sys2Proof/Machine/Step.lean ====
section
/-!
DEFINITION. One step of the machine, with the environment's next sample: while `reset` is 1 the core is held in reset,
whatever it was doing, and when `reset` falls it is released (70_reset_and_hazards.md R270); otherwise the step is one
iteration of the pacing loop (48_pacing_loop.md R210).
-/

namespace Sys2Proof.Machine

/-- One step. -/
def step (s : State) : Host.Outcome State Fault Refusal := s.countSample.react s.sample

/-- The state in which the very next step fetches and runs the word of an opcode-table row
(notes/assumptions/13.md). -/
def State.withFetchWord (s : State) (nbits w : Nat) : State := s.placeWord (tableWord nbits w)

end Sys2Proof.Machine
end

