-- ==== Sys2Proof/Safety.lean ====
section
/-!
DEFINITION. The terms the claims are stated in: the parts of the state and what an instruction may change of them, what
a raised cause leaves, when a step runs an instruction, what a sprite covers, and the invariants of the machine.
-/

namespace Sys2Proof.Machine

/-! ### Frames -/

/-- The parts a state is made of, for saying what an instruction leaves alone. -/
inductive Part where
  | regs | pc | index | stack | delayTimer | soundTimer | display | runState | memory | surroundings
deriving DecidableEq, Repr

/-- `t` has the part as `s` has it. Memory is compared byte by byte through the port; `surroundings` is what only the
loop and the environment write: parameters, key latch, time samples, random byte, and the inputs to come. -/
def SamePart (s t : State) : Part → Prop
  | .regs => ∀ r, t.getV r = s.getV r
  | .pc => t.pc = s.pc
  | .index => t.i = s.i
  | .stack => t.sp = s.sp ∧ t.stack = s.stack
  | .delayTimer => t.dt = s.dt
  | .soundTimer => t.st = s.st
  | .display => t.fb = s.fb ∧ t.events = s.events
  | .runState => t.mode = s.mode ∧ t.waitX = s.waitX ∧ t.halt = s.halt
  | .memory => ∀ a, t.memRead a = s.memRead a
  | .surroundings => t.cfg = s.cfg ∧ t.keys = s.keys ∧ t.frameStart = s.frameStart ∧ t.tnow = s.tnow ∧
      t.rnd = s.rnd ∧ t.held = s.held ∧ t.inputs = s.inputs ∧ t.draws = s.draws

/-- Every part that is not listed is as it was. -/
def ChangesOnly (s t : State) (ps : List Part) : Prop := ∀ p, p ∉ ps → SamePart s t p

/-- The parts each instruction may write, read off the rules of 40_flow.md to 45_misc.md (R21, R24, R30, R36, R76). -/
def writtenParts : Instr → List Part
  | .sys _ => []
  | .cls => [.display]
  | .ret | .call _ => [.pc, .stack, .runState]
  | .jp _ | .jpV0 _ | .seImm _ _ | .sneImm _ _ | .seReg _ _ _ | .sneReg _ _ _ | .skp _ | .sknp _ => [.pc]
  | .ldImm _ _ | .addImm _ _ | .ldReg _ _ | .orReg _ _ | .andReg _ _ | .xorReg _ _ | .addReg _ _ | .subReg _ _
  | .shr _ _ | .subnReg _ _ | .shl _ _ | .rnd _ _ | .ldVxDT _ | .loadRegs _ => [.regs]
  | .ldI _ | .addI _ | .ldF _ => [.index]
  | .drw _ _ _ => [.regs, .display]
  | .ldVxK _ => [.runState]
  | .ldDTVx _ => [.delayTimer]
  | .ldSTVx _ => [.soundTimer]
  | .ldB _ | .storeRegs _ => [.memory]

/-- The general registers each instruction may write, VF as a flag among them (R21). -/
def writesReg : Instr → RegNo → Bool
  | .ldImm x _, r | .addImm x _, r | .ldReg x _, r | .orReg x _, r | .andReg x _, r | .xorReg x _, r | .rnd x _, r
  | .ldVxDT x, r => decide (r = x)
  | .addReg x _, r | .subReg x _, r | .shr x _, r | .subnReg x _, r | .shl x _, r => decide (r = x) || decide (r = vf)
  | .drw _ _ _, r => decide (r = vf)
  | .loadRegs x, r => decide (r.toNat ≤ x.toNat)
  | .sys _, _ | .cls, _ | .ret, _ | .jp _, _ | .call _, _ | .seImm _ _, _ | .sneImm _ _, _ | .seReg _ _ _, _
  | .sneReg _ _ _, _ | .ldI _, _ | .jpV0 _, _ | .skp _, _ | .sknp _, _ | .ldVxK _, _ | .ldDTVx _, _ | .ldSTVx _, _
  | .addI _, _ | .ldF _, _ | .ldB _, _ | .storeRegs _, _ => false

/-- The instruction reads the random byte (R142). -/
def readsRnd : Instr → Bool
  | .rnd _ _ => true
  | .sys _ | .cls | .ret | .jp _ | .call _ | .seImm _ _ | .sneImm _ _ | .seReg _ _ _ | .ldImm _ _ | .addImm _ _
  | .ldReg _ _ | .orReg _ _ | .andReg _ _ | .xorReg _ _ | .addReg _ _ | .subReg _ _ | .shr _ _ | .subnReg _ _
  | .shl _ _ | .sneReg _ _ _ | .ldI _ | .jpV0 _ | .drw _ _ _ | .skp _ | .sknp _ | .ldVxDT _ | .ldVxK _ | .ldDTVx _
  | .ldSTVx _ | .addI _ | .ldF _ | .ldB _ | .storeRegs _ | .loadRegs _ => false

/-- The instruction reads the key latch (R37). -/
def readsKeys : Instr → Bool
  | .skp _ | .sknp _ => true
  | .sys _ | .cls | .ret | .jp _ | .call _ | .seImm _ _ | .sneImm _ _ | .seReg _ _ _ | .ldImm _ _ | .addImm _ _
  | .ldReg _ _ | .orReg _ _ | .andReg _ _ | .xorReg _ _ | .addReg _ _ | .subReg _ _ | .shr _ _ | .subnReg _ _
  | .shl _ _ | .sneReg _ _ _ | .ldI _ | .jpV0 _ | .rnd _ _ | .drw _ _ _ | .ldVxDT _ | .ldVxK _ | .ldDTVx _
  | .ldSTVx _ | .addI _ | .ldF _ | .ldB _ | .storeRegs _ | .loadRegs _ => false

/-- A change of the next state an answer holds, if it holds one. -/
def mapNext (f : State → State) : Host.Outcome State Fault Refusal → Host.Outcome State Fault Refusal
  | .next s => .next (f s)
  | .fault r => .fault r
  | .refused r => .refused r

/-- The register effect of a flag-producing operation (R125): VX holds the result, VF the flag unless X is 15. -/
def FlagAndResult (s t : State) (x : RegNo) (flag : Bool) (result : Nat) : Prop :=
  (∀ q, t.getV q =
    if q = x then BitVec.ofNat 8 result else if q = vf then (if flag then 0x01 else 0x00) else s.getV q) ∧
  ChangesOnly s t [.regs]

/-- The register effect of an operation with one destination and no flag. -/
def OneResult (s t : State) (x : RegNo) (result : Nat) : Prop :=
  (∀ q, t.getV q = if q = x then BitVec.ofNat 8 result else s.getV q) ∧ ChangesOnly s t [.regs]

/-- `t` is `s` after `raise` (R244): MODE and the halt record are written, nothing else. -/
def Raised (s t : State) (c : Cause) (w pc0 : Word) : Prop :=
  t.mode = .halt ∧ t.halt = { cause := c, word := w, pc := pc0 } ∧ t.waitX = s.waitX ∧ ChangesOnly s t [.runState]

/-- The rows of the reset table (R52) that depend neither on `load_fail` nor on the program: the registers, the stack,
the timers, the screen, the latches, and one instant in every time value. -/
def AtReset (t : State) : Prop :=
  (∀ r, t.getV r = 0x00) ∧ t.i = 0x0000 ∧ t.pc = 0x0200 ∧ t.sp = 0 ∧ (∀ k : Fin 16, t.stack[k] = 0x0000) ∧
  t.dt.val = 0x00 ∧ t.st.val = 0x00 ∧ (∀ x y, fbGet t.fb x y = false) ∧ t.events = [] ∧ t.keys = 0x0000 ∧
  t.waitX = 0x0 ∧ t.frameStart = t.tnow ∧ t.dt.base = t.tnow ∧ t.st.base = t.tnow

/-! ### When a step runs an instruction -/

/-- `reset` is 0 before this step and in it: the step is an iteration of the loop (R210, R270). -/
def Released (s : State) : Prop := s.held = false ∧ s.sample.reset = false

/-- The step runs an instruction: reset released, MODE = RUN, display open at this iteration's sample (R211). -/
def Running (s : State) : Prop := Released s ∧ s.mode = .run ∧ s.sample.closed = false

/-- The step is an iteration of a key wait: reset released, MODE = WAITKEY, display open (R218). -/
def Waiting (s : State) : Prop := Released s ∧ s.mode = .waitKey ∧ s.sample.closed = false

/-- The state after steps (a) to (c) of this iteration (R212, R213). -/
def State.sampled (s : State) : State := s.countSample.takeSample s.sample

/-- The instruction this iteration executes, if it executes one. -/
def State.current (s : State) : Option Instr :=
  match s.mode, decodeWord s.fetch with
  | .run, .ok i => some i
  | _, _ => none

/-! ### Sprites -/

/-- The cell of column `cx`, row `cy` lies under a 1 bit of the sprite of `n` rows at I, drawn at (x0, y0) (R150). -/
def SpriteCovers (s : State) (x0 y0 : Byte) (n : Nat) (cx : BitVec 6) (cy : BitVec 5) : Prop :=
  ∃ row, row < n ∧ ∃ bit, bit < 8 ∧ (s.memRead (s.i.toNat + row)).getLsbD (7 - bit) = true ∧
    cx.toNat = (x0.toNat + bit) % 64 ∧ cy.toNat = (y0.toNat + row) % 32

/-- The covered cells in the order of R152: row 0 first, in a row the most significant bit first. -/
def spriteOrder (s : State) (x0 y0 : Byte) (n : Nat) : List (BitVec 6 × BitVec 5) :=
  (List.range n).flatMap fun row =>
    ((List.range 8).filter fun bit => (s.memRead (s.i.toNat + row)).getLsbD (7 - bit)).map fun bit =>
      (BitVec.ofNat 6 ((x0.toNat + bit) % 64), BitVec.ofNat 5 ((y0.toNat + row) % 32))

/-! ### Invariants -/

/-- Memory is in its canonical form. -/
def MemoryCanonical (s : State) : Prop := s.mem.wf s.cfg = true

/-- SP holds 0 to 16: "Values 17 to 31 are never reached" (R31). -/
def StackInRange (s : State) : Prop := s.sp.toNat ≤ stackDepth

/-- TNOW and FRAME_START agree (R40), and no timer's baseline lies after them. -/
def ClocksAgree (s : State) : Prop :=
  s.tnow = s.frameStart ∧ s.dt.base ≤ s.frameStart ∧ s.st.base ≤ s.frameStart

/-- The halt record says why and where the run ended, as the table of R240 has it, and is empty while it has not. -/
def HaltRecordAgrees (s : State) : Prop :=
  match s.halt.cause with
  | .none => s.mode ≠ .halt ∧ s.halt.word = 0x0000 ∧ s.halt.pc = 0x0000
  | .illegalInstruction => s.mode = .halt ∧ (∃ r, decodeWord s.halt.word = .error r) ∧ s.pc = s.halt.pc + 2
  | .stackOverflow => s.mode = .halt ∧ fieldFamily s.halt.word = 0x2 ∧ s.pc = s.halt.pc + 2 ∧ s.sp = 16
  | .stackUnderflow => s.mode = .halt ∧ s.halt.word = 0x00EE ∧ s.pc = s.halt.pc + 2 ∧ s.sp = 0
  | .displayClosed => s.mode = .halt ∧ s.halt.word = 0x0000 ∧ s.halt.pc = s.pc
  | .loadFailure => s.mode = .halt ∧ s.halt.word = 0x0000 ∧ s.halt.pc = 0x0200 ∧ s.pc = 0x0200

/-- What an event does to a display that started clear (R47). -/
def fbApply (fb : Framebuffer) : Event → Framebuffer
  | .pixelSet x y => fbPut fb x y true
  | .pixelClear x y => fbPut fb x y false
  | .clearAll => fbClear

/-- "replaying them from a clear screen reproduces FB" (R47). -/
def EventsReproduceDisplay (s : State) : Prop := s.events.foldl fbApply fbClear = s.fb

/-- The states the machine can be in. -/
def Inv (s : State) : Prop :=
  MemoryCanonical s ∧ StackInRange s ∧ ClocksAgree s ∧ HaltRecordAgrees s ∧ EventsReproduceDisplay s

/-! ### Timers on their own -/

/-- A timer after `update` at each of the times `ts` in turn (R192, R193). -/
def timerAfter (t60 : Nat) (tm : Timer) (ts : List Nat) : Timer := ts.foldl (fun m t => timerUpdate t60 t m) tm

end Sys2Proof.Machine
end

