-- ==== Sys2Proof/Certificates/Slice0/Obligations.lean ====
section
/-!
DEFINITION. The statements for the provers, rule by rule. Where a rule records a decision of the spec's own
(spec/92_eei_decisions.md), the docstring names it.
-/

open Sys2Proof Sys2Proof.Machine

/-! ### Encoding -/

/-- R85, R84: the encoder's word of every instruction decodes to that instruction, whatever its fields hold, the
ignored ones too. Derived: R84's sub-opcode numbers are the spec's (R91). -/
def Obligations.DecodeOfEncode : Prop :=
  ∀ i : Instr, i.wf = true →
    decodeWord (encode i) = .ok i ∧ decode (encodeBytes i) = .ok (i, [])

/-- R85: a word that decodes is the encoder's word of what it decodes to, which is well-formed: no word is read as an
instruction with another encoding. -/
def Obligations.EncodeOfDecode : Prop :=
  ∀ (w : Word) (i : Instr), decodeWord w = .ok i → encode i = w ∧ i.wf = true

/-- R86: the illegal words are exactly the unknown sub-opcodes of families 8, E and F (decision D13). -/
def Obligations.IllegalWordsAreTheUnknownSubOpcodes : Prop :=
  ∀ w : Word, (∃ r, decodeWord w = .error r) ↔
    (w.toNat / 4096 = 0x8 ∧ w.toNat % 16 ∈ [0x8, 0x9, 0xA, 0xB, 0xC, 0xD, 0xF]) ∨
    (w.toNat / 4096 = 0xE ∧ w.toNat % 256 ∉ [0x9E, 0xA1]) ∨
    (w.toNat / 4096 = 0xF ∧ w.toNat % 256 ∉ [0x07, 0x0A, 0x15, 0x18, 0x1E, 0x29, 0x33, 0x55, 0x65])

/-- Sanity: words the spec writes out (95_test_vectors.md) decode to what they stand for, one or more a family. -/
def Obligations.WordsOfTheSpecDecode : Prop :=
  decodeWord 0x00E0 = .ok .cls ∧ decodeWord 0x00E1 = .ok (.sys 0x0E1) ∧ decodeWord 0x1ABC = .ok (.jp 0xABC) ∧
  decodeWord 0x2210 = .ok (.call 0x210) ∧ decodeWord 0x3310 = .ok (.seImm 3 0x10) ∧
  decodeWord 0x4310 = .ok (.sneImm 3 0x10) ∧ decodeWord 0x5127 = .ok (.seReg 1 2 7) ∧
  decodeWord 0x7102 = .ok (.addImm 1 0x02) ∧ decodeWord 0xB7FF = .ok (.jpV0 0x7FF) ∧
  decodeWord 0x912F = .ok (.sneReg 1 2 0xF) ∧ decodeWord 0x6A3E = .ok (.ldImm 0xA 0x3E) ∧
  decodeWord 0x8127 = .ok (.subnReg 1 2) ∧ decodeWord 0xA300 = .ok (.ldI 0x300) ∧
  decodeWord 0xC10F = .ok (.rnd 1 0x0F) ∧ decodeWord 0xD012 = .ok (.drw 0 1 2) ∧
  decodeWord 0xE29E = .ok (.skp 2) ∧ decodeWord 0xF265 = .ok (.loadRegs 2) ∧
  decodeWord 0xF143 = .error (.unknownMisc 0x43) ∧ decodeWord 0x8128 = .error (.unknownAlu 8)

/-! ### Memory -/

/-- R61, R62, R63: a read after a write gives the byte written at the address, reduced modulo 4096 (decision D7), and
leaves every other address alone; a write changes nothing outside memory. -/
def Obligations.ReadAfterWrite : Prop :=
  ∀ (s : State) (a n : Nat) (b : Byte),
    (s.memWrite a b).memRead n = (if n % 4096 = a % 4096 then b else s.memRead n) ∧
    s.memRead n = s.memRead (n % 4096) ∧
    ChangesOnly s (s.memWrite a b) [.memory]

/-- R64: the fetch reads the high byte at PC and the low byte at the next address, over the end of memory too; and, as
R74 derives from R71 and R211, it reads what the last stores left there. -/
def Obligations.FetchSeesStores : Prop :=
  ∀ (s : State) (hi lo : Byte),
    s.fetch.toNat = (s.memRead s.pc.toNat).toNat * 256 + (s.memRead ((s.pc.toNat + 1) % 4096)).toNat ∧
    ((s.memWrite s.pc.toNat hi).memWrite (s.pc.toNat + 1) lo).fetch.toNat = hi.toNat * 256 + lo.toNat

/-! ### The step -/

/-- R211, R215: where the bytes at PC decode to an instruction, a running step is that instruction, executed on the
sampled state with PC advanced by 2, and then the timer update, unless the instruction halted the core. -/
def Obligations.StepRunsTheDecodedInstruction : Prop :=
  ∀ (s : State) (i : Instr), Running s →
    decode [s.memRead s.pc.toNat, s.memRead (s.pc.toNat + 1)] = .ok (i, []) →
    step s =
      match exec i (s.sampled.setPc (s.pc + 2)) with
      | .next t => if t.mode = .halt then .next t else .next t.updateTimers
      | .fault r => .fault r
      | .refused r => .refused r

/-- R241: an illegal word ends the run with cause 1, the word and its address in the halt record and PC advanced
(decisions D21, D22). -/
def Obligations.IllegalWordHalts : Prop :=
  ∀ (s : State) (r : Reject), Running s → decodeWord s.fetch = .error r →
    ∃ t, step s = .next t ∧
      Raised (s.sampled.setPc (s.pc + 2)) t .illegalInstruction s.fetch s.pc

/-- R214, R245, R248: with the display closed at the sample the run ends cleanly before any fetch and before any key is
received, in RUN and in WAITKEY (decision D21 for the record). -/
def Obligations.ClosedDisplayEndsTheRun : Prop :=
  ∀ s : State, Released s → s.mode ≠ .halt → s.sample.closed = true →
    ∃ t, step s = .next t ∧ Raised s.sampled t .displayClosed 0x0000 s.pc

/-- R222: in HALT a step changes nothing of the core, until reset; only the model's own count of environment samples
(notes/assumptions/1.md) moves on. -/
def Obligations.HaltIsAbsorbing : Prop :=
  ∀ s : State, s.mode = .halt → Released s → step s = .next s.countSample

/-- R212, R213: an iteration releases its wait no earlier than T60 ticks after the last one, latches the one instant in
TNOW and FRAME_START (decisions D3, D4) and replaces KEYS by the sampled lines. The form with `late` and the
count of samples are the model's (notes/assumptions/7.md, 1.md). -/
def Obligations.IterationIsPacedAndSamplesKeys : Prop :=
  ∀ s t : State, Released s → s.mode ≠ .halt → step s = .next t →
    t.tnow = s.frameStart + s.cfg.t60 + s.sample.late ∧ s.frameStart + s.cfg.t60 ≤ t.tnow ∧
    t.frameStart = t.tnow ∧ t.keys = s.sample.keyIn ∧ t.cfg = s.cfg ∧ t.draws = s.draws + 1

/-- R219: the complete list of MODE transitions, each with its ground, those into and out of reset among them. In reset
MODE has its reset value (R52). That an image over 3584 bytes counts as a failed load, and what a step in reset is, are
the model's choice (notes/assumptions/9.md, 10.md). -/
def Obligations.ModeTransitionsAreTheListed : Prop :=
  ∀ s t : State, step s = .next t →
    (s.sample.reset = true → t.mode = .run ∧ t.held = true) ∧
    (s.held = true → s.sample.reset = false →
      t.held = false ∧ t.mode = if s.sample.loadFail = true ∨ 3584 < s.sample.image.length then .halt else .run) ∧
    (Released s →
      t.held = false ∧
      (s.mode = .run → t.mode = .waitKey → ∃ x, s.current = some (.ldVxK x)) ∧
      (s.mode = .run → t.mode = .halt →
        s.sample.closed = true ∨ (∃ r, decodeWord s.fetch = .error r) ∨
        (s.current = some .ret ∧ s.sp = 0) ∨ (∃ nnn, s.current = some (.call nnn) ∧ s.sp = 16)) ∧
      (s.mode = .waitKey → t.mode = .run → s.sample.closed = false ∧ s.sample.kd ≠ none) ∧
      (s.mode = .waitKey → t.mode = .halt → s.sample.closed = true) ∧
      (s.mode = .halt → t.mode = .halt))

/-- R244, R197: an iteration that ends the run has written no register, stack entry, timer, pixel, event or byte of memory,
and the tone is off. -/
def Obligations.HaltingStepWritesNothingElse : Prop :=
  ∀ s t : State, Released s → s.mode ≠ .halt → step s = .next t → t.mode = .halt →
    ChangesOnly s t [.pc, .runState, .surroundings] ∧ t.tone = false ∧ t.halted = true

/-- From every state with SP in range the machine answers a next state: no instruction is refused and none faults. At other values the
fault is the model's own stop (notes/assumptions/6.md). -/
def Obligations.StepAlwaysAnswersNext : Prop :=
  ∀ s : State, StackInRange s → ∃ t, step s = .next t

/-- The model's own stop (notes/assumptions/6.md): CALL and RET, and no other instruction, fault where SP holds a value
R31 says is never reached. -/
def Obligations.OnlyUnreachableStackPointersFault : Prop :=
  ∀ (i : Instr) (s : State),
    (exec i s = .fault .spOutOfRange ↔ 16 < s.sp.toNat ∧ (i = .ret ∨ ∃ nnn, i = .call nnn)) ∧
    (∀ r, exec i s ≠ .refused r)

/-! ### Reset -/

/-- R270, R52: in every step in which `reset` is 1, from any mode, HALT too, the core is idle at the reset values: it
holds every one of them, nothing is halted and no tone sounds, whatever else was sampled. That this takes one step, and
the instant its time values hold, are the model's choice (notes/assumptions/9.md). -/
def Obligations.ResetHoldsTheCoreAtTheTable : Prop :=
  ∀ s : State, s.sample.reset = true →
    ∃ t, step s = .next t ∧ t.held = true ∧ AtReset t ∧ t.mode = .run ∧
      t.halt = { cause := .none, word := 0x0000, pc := 0x0000 } ∧ t.halted = false ∧ t.tone = false ∧
      s.tnow ≤ t.tnow ∧ t.cfg = s.cfg

/-- R52, R270, R273, R275: what the core is when `reset` falls, for an image that fits and for a failed load. The values
are the spec's decision D23; the fall as one step and t_reset as `s.tnow + s.sample.late` are the model's choice
(notes/assumptions/9.md, 10.md). -/
def Obligations.ResetPulseLeavesTheTable : Prop :=
  ∀ s : State, s.held = true → s.sample.reset = false →
    ∃ t, step s = .next t ∧ t.held = false ∧ AtReset t ∧ t.tnow = s.tnow + s.sample.late ∧ t.cfg = s.cfg ∧
      (s.sample.loadFail = false → s.sample.image.length ≤ 3584 →
        t.mode = .run ∧ t.halt = { cause := .none, word := 0x0000, pc := 0x0000 }) ∧
      (s.sample.loadFail = true ∨ 3584 < s.sample.image.length →
        t.mode = .halt ∧ t.halt = { cause := .loadFailure, word := 0x0000, pc := 0x0200 })

/-- R273, R274: memory while the core is held in reset, and when `reset` falls on a program that fits: the font at
FONT_BASE, the program from 0x200 as the loader has written it, 0x00 at every other address (decisions D17, D23;
notes/assumptions/9.md). -/
def Obligations.ResetPulseLoadsTheImage : Prop :=
  ∀ s : State, (s.sample.reset = true ∨ s.held = true ∧ s.sample.loadFail = false) → s.cfg.wf = true →
    s.sample.image.length ≤ 3584 →
    ∃ t, step s = .next t ∧ ∀ a, a < 4096 →
      t.memRead a =
        if a < 0x200 then
          (if s.cfg.fontBase.toNat ≤ a then (s.cfg.font[a - s.cfg.fontBase.toNat]?).getD 0x00 else 0x00)
        else (s.sample.image[a - 0x200]?).getD 0x00

/-- The invariants hold of the state after reset, and reset leaves the entry point and the mode of R52 (its values:
notes/assumptions/3.md, 4.md). -/
def Obligations.ResetMeetsTheInvariants : Prop :=
  Inv State.reset ∧ State.reset.pc.toNat = 0x200 ∧ State.reset.mode = .run

/-! ### Codes -/

/-- R38, R39, R49, R240: the numbers of the modes and of the halt causes, as MODE and `halt_cause` hold them (decisions
D20, D21): mode code 3 and cause codes 6 and 7 do not occur. -/
def Obligations.ModesAndCausesHaveTheirCodes : Prop :=
  (Mode.run.code.toNat = 0 ∧ Mode.waitKey.code.toNat = 1 ∧ Mode.halt.code.toNat = 2 ∧
    ∀ m : Mode, m.code.toNat ≠ 3) ∧
  (Cause.none.code.toNat = 0 ∧ Cause.illegalInstruction.code.toNat = 1 ∧ Cause.stackOverflow.code.toNat = 2 ∧
    Cause.stackUnderflow.code.toNat = 3 ∧ Cause.displayClosed.code.toNat = 4 ∧ Cause.loadFailure.code.toNat = 5 ∧
    ∀ c : Cause, c.code.toNat ≠ 6 ∧ c.code.toNat ≠ 7)

/-! ### Invariants every step keeps -/

/-- Every step keeps memory in its canonical form. -/
def Obligations.StepKeepsMemoryCanonical : Prop :=
  ∀ s t : State, MemoryCanonical s → step s = .next t → MemoryCanonical t

/-- R31: SP values 17 to 31 are never reached. -/
def Obligations.StepKeepsStackInRange : Prop :=
  ∀ s t : State, StackInRange s → step s = .next t → StackInRange t

/-- R40: TNOW and FRAME_START stay equal, and no timer's baseline runs ahead of them (the premise of R192). -/
def Obligations.StepKeepsClocks : Prop :=
  ∀ s t : State, ClocksAgree s → step s = .next t → ClocksAgree t

/-- R39, R240: the halt record stays empty until the run ends, and then says why and where, for good. -/
def Obligations.StepKeepsHaltRecord : Prop :=
  ∀ s t : State, HaltRecordAgrees s → step s = .next t → HaltRecordAgrees t

/-- R47: the events of the run, replayed from a clear screen, give the framebuffer. -/
def Obligations.StepKeepsEventsReproducingDisplay : Prop :=
  ∀ s t : State, EventsReproduceDisplay s → step s = .next t → EventsReproduceDisplay t

/-! ### Timers -/

/-- R192: what `update` does, and when it does nothing. -/
def Obligations.TimerUpdate : Prop :=
  ∀ (t60 : Nat) (t : Nat) (m : Timer), (m.val ≠ 0 → m.base ≤ t) →
    (m.val ≠ 0 → t60 ≤ t - m.base →
      (timerUpdate t60 t m).val.toNat + 1 = m.val.toNat ∧ (timerUpdate t60 t m).base = t) ∧
    (m.val = 0 ∨ t - m.base < t60 → timerUpdate t60 t m = m)

/-- R193 (1) to (3), which the spec derives from R191 and R192: after a set, however often and however late a timer is updated, it only falls, never below 0, and
not before its time: the count cannot be `v - j` before `j * T60` ticks have gone by. -/
def Obligations.TimerNeverRunsFast : Prop :=
  ∀ (t60 : Nat) (v : Byte) (t0 : Nat) (ts : List Nat), List.IsChain (· ≤ ·) (t0 :: ts) →
    (timerAfter t60 (timerSet v t0) ts).val.toNat ≤ v.toNat ∧
    (v.toNat - (timerAfter t60 (timerSet v t0) ts).val.toNat) * t60 ≤ ts.getLastD t0 - t0

/-- R195, which the spec derives from R191, R192, R212 and R217: inside the loop a timer set by the iteration's instruction keeps its new value, and any other timer falls by
exactly one, down to 0, in every iteration that reaches step (f), however late it is. -/
def Obligations.TimersFallOncePerIteration : Prop :=
  ∀ s t : State, ClocksAgree s → Released s → s.mode ≠ .halt → step s = .next t → t.mode ≠ .halt →
    s.cfg.wf = true →
    (∀ x, s.current = some (.ldDTVx x) → t.dt.val = s.getV x) ∧
    ((∀ x, s.current ≠ some (.ldDTVx x)) → t.dt.val.toNat = s.dt.val.toNat - 1) ∧
    (∀ x, s.current = some (.ldSTVx x) → t.st.val = s.getV x) ∧
    ((∀ x, s.current ≠ some (.ldSTVx x)) → t.st.val.toNat = s.st.val.toNat - 1)

/-- R48, R49, R196: `tone` is 1 exactly while the sound timer is nonzero and the core is not halted (decision D21);
`dt_nonzero` exactly while the delay timer is nonzero (decision D25); `halted` exactly in HALT. -/
def Obligations.ToneFollowsTheSoundTimer : Prop :=
  ∀ s : State,
    (s.tone = true ↔ s.st.val.toNat ≠ 0 ∧ s.mode ≠ .halt) ∧ (s.dtNonzero = true ↔ s.dt.val.toNat ≠ 0) ∧
    (s.halted = true ↔ s.mode = .halt)

/-! ### Families 0 to 5 and 9 -/

/-- R100, R87: 0NNN does nothing; in a run its iteration leaves the fetch advance and the timer update only. -/
def Obligations.SysDoesNothing : Prop :=
  (∀ (nnn : BitVec 12) (s : State), exec (.sys nnn) s = .next s) ∧
  (∀ s : State, Running s → s.fetch.toNat < 0x1000 → s.fetch.toNat ≠ 0x00E0 → s.fetch.toNat ≠ 0x00EE →
    step s = .next (s.sampled.setPc (s.pc + 2)).updateTimers)

/-- R101: CLS clears every cell and emits exactly one ClearAll, on a clear screen too (decision D29). -/
def Obligations.ClsClearsTheScreen : Prop :=
  ∀ s : State, ∃ t, exec .cls s = .next t ∧ (∀ x y, fbGet t.fb x y = false) ∧
    t.events = s.events ++ [.clearAll] ∧ ChangesOnly s t [.display]

/-- R102, R243: RET pops the last address, all 16 bits of it, into PC and leaves its slot as it was; on an empty stack it
raises StackUnderflow and changes nothing else (decisions D9, D21). -/
def Obligations.RetPopsOrUnderflows : Prop :=
  ∀ s : State,
    (1 ≤ s.sp.toNat → s.sp.toNat ≤ 16 →
      ∃ t, exec .ret s = .next t ∧ t.sp.toNat = s.sp.toNat - 1 ∧ s.stack[s.sp.toNat - 1]? = some t.pc ∧
        t.stack = s.stack ∧ ChangesOnly s t [.pc, .stack]) ∧
    (s.sp.toNat = 0 → ∃ t, exec .ret s = .next t ∧ Raised s t .stackUnderflow 0x00EE (s.pc - 2))

/-- R103: JP puts NNN into PC. R141: JP V0 puts NNN + V0 there, unreduced (decision D7). -/
def Obligations.JumpsGoToTheirTargets : Prop :=
  ∀ (nnn : BitVec 12) (s : State),
    (∃ t, exec (.jp nnn) s = .next t ∧ t.pc.toNat = nnn.toNat ∧ ChangesOnly s t [.pc]) ∧
    (∃ t, exec (.jpV0 nnn) s = .next t ∧ t.pc.toNat = nnn.toNat + (s.getV 0).toNat ∧ ChangesOnly s t [.pc])

/-- R104, R242: CALL pushes PC and jumps; with 16 addresses held it raises StackOverflow and changes nothing else
(decisions D9, D21). -/
def Obligations.CallPushesOrOverflows : Prop :=
  ∀ (nnn : BitVec 12) (s : State),
    (s.sp.toNat < 16 →
      ∃ t, exec (.call nnn) s = .next t ∧ t.pc.toNat = nnn.toNat ∧ t.sp.toNat = s.sp.toNat + 1 ∧
        (∀ k, k < 16 → t.stack[k]? = if k = s.sp.toNat then some s.pc else s.stack[k]?) ∧
        ChangesOnly s t [.pc, .stack]) ∧
    (s.sp.toNat = 16 →
      ∃ t w, exec (.call nnn) s = .next t ∧ w.toNat = 0x2000 + nnn.toNat ∧
        Raised s t .stackOverflow w (s.pc - 2))

/-- R102, R104: a RET with the stack as a CALL left it comes back to the CALL's return address, and the stack holds what
it held. -/
def Obligations.RetUndoesCall : Prop :=
  ∀ (nnn : BitVec 12) (s t u : State), s.sp.toNat < 16 → exec (.call nnn) s = .next t →
    u.sp = t.sp → u.stack = t.stack →
    ∃ r, exec .ret u = .next r ∧ r.pc = s.pc ∧ r.sp = s.sp ∧
      ∀ k, k < s.sp.toNat → r.stack[k]? = s.stack[k]?

/-- R105, R106: the skips on an immediate add 2 to PC, modulo 65536, exactly when the comparison holds. -/
def Obligations.SkipsOnImmediate : Prop :=
  ∀ (x : RegNo) (nn : Byte) (s : State),
    (∃ t, exec (.seImm x nn) s = .next t ∧ ChangesOnly s t [.pc] ∧
      t.pc.toNat = (if (s.getV x).toNat = nn.toNat then (s.pc.toNat + 2) % 65536 else s.pc.toNat)) ∧
    (∃ t, exec (.sneImm x nn) s = .next t ∧ ChangesOnly s t [.pc] ∧
      t.pc.toNat = (if (s.getV x).toNat = nn.toNat then s.pc.toNat else (s.pc.toNat + 2) % 65536))

/-- R107, R108: the skips on two registers, whatever the ignored low nibble holds (decision D12). -/
def Obligations.SkipsOnRegisters : Prop :=
  ∀ (x y : RegNo) (n : BitVec 4) (s : State),
    (∃ t, exec (.seReg x y n) s = .next t ∧ ChangesOnly s t [.pc] ∧
      t.pc.toNat = (if (s.getV x).toNat = (s.getV y).toNat then (s.pc.toNat + 2) % 65536 else s.pc.toNat)) ∧
    (∃ t, exec (.sneReg x y n) s = .next t ∧ ChangesOnly s t [.pc] ∧
      t.pc.toNat = (if (s.getV x).toNat = (s.getV y).toNat then s.pc.toNat else (s.pc.toNat + 2) % 65536))

/-! ### Families 6, 7, 8 -/

/-- R120, R121, R122: load immediate, add immediate modulo 256 with no flag, assign. -/
def Obligations.LoadsAndAddImmediate : Prop :=
  ∀ (x y : RegNo) (nn : Byte) (s : State),
    (∃ t, exec (.ldImm x nn) s = .next t ∧ OneResult s t x nn.toNat) ∧
    (∃ t, exec (.addImm x nn) s = .next t ∧ OneResult s t x (((s.getV x).toNat + nn.toNat) % 256)) ∧
    (∃ t, exec (.ldReg x y) s = .next t ∧ OneResult s t x (s.getV y).toNat)

/-- R123, R124, R131: OR, AND, XOR bit by bit; VF is not written unless it is the destination. -/
def Obligations.LogicOperations : Prop :=
  ∀ (x y : RegNo) (s : State),
    (∃ t, exec (.orReg x y) s = .next t ∧ ChangesOnly s t [.regs] ∧ (∀ q, q ≠ x → t.getV q = s.getV q) ∧
      ∀ k, (t.getV x).getLsbD k = ((s.getV x).getLsbD k || (s.getV y).getLsbD k)) ∧
    (∃ t, exec (.andReg x y) s = .next t ∧ ChangesOnly s t [.regs] ∧ (∀ q, q ≠ x → t.getV q = s.getV q) ∧
      ∀ k, (t.getV x).getLsbD k = ((s.getV x).getLsbD k && (s.getV y).getLsbD k)) ∧
    (∃ t, exec (.xorReg x y) s = .next t ∧ ChangesOnly s t [.regs] ∧ (∀ q, q ≠ x → t.getV q = s.getV q) ∧
      ∀ k, (t.getV x).getLsbD k = ((s.getV x).getLsbD k ^^ (s.getV y).getLsbD k))

/-- R126, R125: the sum modulo 256 and the carry, for every X and Y, 15 too (decision D10). -/
def Obligations.AddWithCarryFlag : Prop :=
  ∀ (x y : RegNo) (s : State), ∃ t, exec (.addReg x y) s = .next t ∧
    FlagAndResult s t x (decide (256 ≤ (s.getV x).toNat + (s.getV y).toNat))
      (((s.getV x).toNat + (s.getV y).toNat) % 256)

/-- R127, R129, R125: the differences modulo 256 and the flag that is 1 exactly where nothing is borrowed
(decision D10). -/
def Obligations.SubtractWithBorrowFlag : Prop :=
  ∀ (x y : RegNo) (s : State),
    (∃ t, exec (.subReg x y) s = .next t ∧
      FlagAndResult s t x (decide ((s.getV y).toNat ≤ (s.getV x).toNat))
        (if (s.getV y).toNat ≤ (s.getV x).toNat then (s.getV x).toNat - (s.getV y).toNat
         else (s.getV x).toNat + 256 - (s.getV y).toNat)) ∧
    (∃ t, exec (.subnReg x y) s = .next t ∧
      FlagAndResult s t x (decide ((s.getV x).toNat ≤ (s.getV y).toNat))
        (if (s.getV x).toNat ≤ (s.getV y).toNat then (s.getV y).toNat - (s.getV x).toNat
         else (s.getV y).toNat + 256 - (s.getV x).toNat))

/-- R128, R130, R125: the shifts move VX by one place and put the bit shifted out into VF; VY plays no part
(decisions D10, D11). -/
def Obligations.ShiftsWithFlag : Prop :=
  ∀ (x y : RegNo) (s : State),
    (∃ t, exec (.shr x y) s = .next t ∧
      FlagAndResult s t x (decide ((s.getV x).toNat % 2 = 1)) ((s.getV x).toNat / 2)) ∧
    (∃ t, exec (.shl x y) s = .next t ∧
      FlagAndResult s t x (decide (128 ≤ (s.getV x).toNat)) (2 * (s.getV x).toNat % 256))

/-! ### Families A, B, C, D, E -/

/-- R140, R174, R175: the three writes of I: NNN, the sum modulo 65536 without a flag (decision D7), and the address of
the glyph of the low digit of VX (decisions D16, D17). -/
def Obligations.IndexWrites : Prop :=
  ∀ (nnn : BitVec 12) (x : RegNo) (s : State),
    (∃ t, exec (.ldI nnn) s = .next t ∧ t.i.toNat = nnn.toNat ∧ ChangesOnly s t [.index]) ∧
    (∃ t, exec (.addI x) s = .next t ∧ t.i.toNat = (s.i.toNat + (s.getV x).toNat) % 65536 ∧
      ChangesOnly s t [.index]) ∧
    (∃ t, exec (.ldF x) s = .next t ∧ ChangesOnly s t [.index] ∧
      (s.cfg.wf = true → t.i.toNat = s.cfg.fontBase.toNat + 5 * ((s.getV x).toNat % 16)) ∧
      t.i.toNat = (s.cfg.fontBase.toNat + 5 * ((s.getV x).toNat % 16)) % 65536)

/-- R142: VX takes the random byte of the iteration, whatever it is, AND NN, so that no bit outside NN is set; in a step
the byte is the one just sampled. -/
def Obligations.RandomByteIsMasked : Prop :=
  ∀ (x : RegNo) (nn : Byte) (s : State),
    (∃ t, exec (.rnd x nn) s = .next t ∧ ChangesOnly s t [.regs] ∧ (∀ q, q ≠ x → t.getV q = s.getV q) ∧
      (∀ k, (t.getV x).getLsbD k = (s.rnd.getLsbD k && nn.getLsbD k)) ∧
      t.getV x &&& ~~~nn = 0 ∧ (t.getV x).toNat ≤ nn.toNat) ∧
    (Running s → s.current = some (.rnd x nn) → ∃ t, step s = .next t ∧ t.getV x = s.sample.rnd &&& nn)

/-- R151, R150: a draw inverts exactly the cells under the sprite's 1 bits, each axis modulo the grid, and VF is 1
exactly when one of them was lit; the coordinates are latched before VF is cleared, so X = 15 and Y = 15 use the old
VF; N = 0 draws nothing and clears VF (decision D15). One event is emitted for each 1 bit of the sprite, in the order of
the loops, saying which way the cell went. -/
def Obligations.DrawInvertsTheSpritesCells : Prop :=
  ∀ (x y : RegNo) (n : BitVec 4) (s : State), ∃ t, exec (.drw x y n) s = .next t ∧
    (∀ cx cy, SpriteCovers s (s.getV x) (s.getV y) n.toNat cx cy → fbGet t.fb cx cy = !fbGet s.fb cx cy) ∧
    (∀ cx cy, ¬ SpriteCovers s (s.getV x) (s.getV y) n.toNat cx cy → fbGet t.fb cx cy = fbGet s.fb cx cy) ∧
    ((∃ cx cy, SpriteCovers s (s.getV x) (s.getV y) n.toNat cx cy ∧ fbGet s.fb cx cy = true) → t.getV vf = 0x01) ∧
    ((∀ cx cy, SpriteCovers s (s.getV x) (s.getV y) n.toNat cx cy → fbGet s.fb cx cy = false) → t.getV vf = 0x00) ∧
    t.events = s.events ++ ((spriteOrder s (s.getV x) (s.getV y) n.toNat).map fun c =>
      if fbGet s.fb c.1 c.2 = true then .pixelClear c.1 c.2 else .pixelSet c.1 c.2) ∧
    (∀ q, q ≠ vf → t.getV q = s.getV q) ∧ ChangesOnly s t [.regs, .display]

/-- R153 (1), which the spec derives from R151: the same sprite drawn again at the same place restores the framebuffer, and the second draw's VF is 1
exactly when some cell under the sprite was clear before the first. -/
def Obligations.SecondDrawRestoresTheScreen : Prop :=
  ∀ (x y x' y' : RegNo) (n : BitVec 4) (s t u v : State), exec (.drw x y n) s = .next t →
    u.fb = t.fb → u.cfg = t.cfg → u.mem = t.mem → u.i = t.i →
    u.getV x' = s.getV x → u.getV y' = s.getV y → exec (.drw x' y' n) u = .next v →
    v.fb = s.fb ∧
    (v.getV vf = 0x01 ↔
      ∃ cx cy, SpriteCovers s (s.getV x) (s.getV y) n.toNat cx cy ∧ fbGet s.fb cx cy = false)

/-- R160, R161, R162: the key skips test the latch KEYS at the low four bits of VX (decision D16). -/
def Obligations.SkipsOnKeys : Prop :=
  ∀ (x : RegNo) (s : State),
    (∃ t, exec (.skp x) s = .next t ∧ ChangesOnly s t [.pc] ∧
      t.pc.toNat = (if s.keys.getLsbD ((s.getV x).toNat % 16) = true then (s.pc.toNat + 2) % 65536
        else s.pc.toNat)) ∧
    (∃ t, exec (.sknp x) s = .next t ∧ ChangesOnly s t [.pc] ∧
      t.pc.toNat = (if s.keys.getLsbD ((s.getV x).toNat % 16) = true then s.pc.toNat
        else (s.pc.toNat + 2) % 65536))

/-! ### Family F -/

/-- R170, R172, R173: FX07 reads the delay timer; FX15 and FX18 store VX and the iteration's time sample, and FX18
raises or stops the tone in its own step. -/
def Obligations.TimerInstructions : Prop :=
  ∀ (x : RegNo) (s : State),
    (∃ t, exec (.ldVxDT x) s = .next t ∧ OneResult s t x s.dt.val.toNat) ∧
    (∃ t, exec (.ldDTVx x) s = .next t ∧ t.dt.val = s.getV x ∧ t.dt.base = s.tnow ∧
      ChangesOnly s t [.delayTimer]) ∧
    (∃ t, exec (.ldSTVx x) s = .next t ∧ t.st.val = s.getV x ∧ t.st.base = s.tnow ∧
      (s.mode ≠ .halt → (t.tone = true ↔ (s.getV x).toNat ≠ 0)) ∧ ChangesOnly s t [.soundTimer])

/-- R171: FX0A suspends the run, remembering X; no register is written yet, and a key-down event of its own iteration is
not used (decision D20). -/
def Obligations.KeyWaitSuspends : Prop :=
  ∀ (x : RegNo) (s : State),
    (∃ t, exec (.ldVxK x) s = .next t ∧ t.mode = .waitKey ∧ t.waitX = x ∧ t.halt = s.halt ∧
      ChangesOnly s t [.runState]) ∧
    (Running s → s.current = some (.ldVxK x) →
      ∃ t, step s = .next t ∧ t.mode = .waitKey ∧ t.waitX = x ∧ (∀ q, t.getV q = s.getV q) ∧
        t.pc = s.pc + 2)

/-- R218, R171: in a key wait nothing is fetched; a sampled key-down event writes its index to V[WAITX] and ends the
wait, and without one the wait goes on; KEYS is refreshed and the timers are updated all the same (decision D20). -/
def Obligations.KeyWaitResumesOnTheEvent : Prop :=
  ∀ s : State, Waiting s →
    ∃ t, step s = .next t ∧
      (∀ k, s.sample.kd = some k → t.mode = .run ∧
        ∀ q, t.getV q = if q = s.waitX then BitVec.ofNat 8 k.toNat else s.getV q) ∧
      (s.sample.kd = none → t.mode = .waitKey ∧ ∀ q, t.getV q = s.getV q) ∧
      t.waitX = s.waitX ∧ t.halt = s.halt ∧ t.keys = s.sample.keyIn ∧
      t.dt = timerUpdate s.cfg.t60 t.tnow s.dt ∧ t.st = timerUpdate s.cfg.t60 t.tnow s.st ∧
      ChangesOnly s t [.regs, .runState, .delayTimer, .soundTimer, .surroundings]

/-- R176: FX33 stores the three decimal digits at I, I + 1, I + 2, the hundreds first, each address reduced; every other
byte, every register and I stay. -/
def Obligations.BcdStoresThreeDigits : Prop :=
  ∀ (x : RegNo) (s : State), ∃ t, exec (.ldB x) s = .next t ∧
    (t.memRead s.i.toNat).toNat = (s.getV x).toNat / 100 ∧
    (t.memRead (s.i.toNat + 1)).toNat = (s.getV x).toNat / 10 % 10 ∧
    (t.memRead (s.i.toNat + 2)).toNat = (s.getV x).toNat % 10 ∧
    (∀ a, (∀ k, k < 3 → a % 4096 ≠ (s.i.toNat + k) % 4096) → t.memRead a = s.memRead a) ∧
    ChangesOnly s t [.memory]

/-- R178: FX55 stores V0 to VX, inclusive, at I, I + 1, ...; every other byte, every register and I stay. -/
def Obligations.BlockStore : Prop :=
  ∀ (x : RegNo) (s : State), ∃ t, exec (.storeRegs x) s = .next t ∧
    (∀ r : RegNo, r.toNat ≤ x.toNat → t.memRead (s.i.toNat + r.toNat) = s.getV r) ∧
    (∀ a, (∀ k, k ≤ x.toNat → a % 4096 ≠ (s.i.toNat + k) % 4096) → t.memRead a = s.memRead a) ∧
    ChangesOnly s t [.memory]

/-- R179: FX65 loads V0 to VX, inclusive, from I, I + 1, ...; the other registers, memory and I stay. -/
def Obligations.BlockLoad : Prop :=
  ∀ (x : RegNo) (s : State), ∃ t, exec (.loadRegs x) s = .next t ∧
    (∀ r : RegNo, t.getV r = if r.toNat ≤ x.toNat then s.memRead (s.i.toNat + r.toNat) else s.getV r) ∧
    ChangesOnly s t [.regs]

/-- 95_test_vectors.md S8: a block stored and loaded back gives the original registers, whatever the registers held in
between, and I is unchanged by either. -/
def Obligations.BlockRoundTrip : Prop :=
  ∀ (x : RegNo) (s t u v : State), exec (.storeRegs x) s = .next t →
    u.mem = t.mem → u.cfg = t.cfg → u.i = t.i → exec (.loadRegs x) u = .next v →
    (∀ r : RegNo, r.toNat ≤ x.toNat → v.getV r = s.getV r) ∧ v.i = s.i

/-! ### Whole-machine rules -/

/-- R109, R24, R30, R36, R37, R76: an instruction that answers a next state has changed no part of the machine but those
its rule writes. -/
def Obligations.InstructionsChangeOnlyTheirParts : Prop :=
  ∀ (i : Instr) (s t : State), exec i s = .next t → ChangesOnly s t (writtenParts i)

/-- R21: no general register changes but an instruction's destination and, for the six flag writers, VF. -/
def Obligations.InstructionsWriteOnlyTheirRegisters : Prop :=
  ∀ (i : Instr) (s t : State) (r : RegNo), exec i s = .next t → writesReg i r = false → t.getV r = s.getV r

/-- R210, R213: in RUN the sampled key-down event is dropped: two iterations whose samples differ in it alone are the
same. -/
def Obligations.RunDropsTheKeyEvent : Prop :=
  ∀ (s : State) (e : Env) (kd kd' : Option KeyIndex), s.mode = .run →
    s.iterate { e with kd := kd } = s.iterate { e with kd := kd' }

/-- R210, R37: the random byte reaches no instruction but CXNN, and the key latch none but EX9E and EXA1: with another
value there, every other instruction does the same. -/
def Obligations.RandomAndKeysReachOnlyTheirReaders : Prop :=
  ∀ (i : Instr) (s : State) (b : Byte) (k : BitVec 16),
    (readsRnd i = false → exec i { s with rnd := b } = mapNext (fun t => { t with rnd := b }) (exec i s)) ∧
    (readsKeys i = false → exec i { s with keys := k } = mapNext (fun t => { t with keys := k }) (exec i s))
end

