-- ==== Sys2Proof/Laws/Decode.lean ====
section
/-!
SUPPORT. Words and fields as numbers (30_encoding.md R81, R82): what each format's word is, what each field is, and so
every field of every format and every word put together again from its fields.
-/

namespace Sys2Proof

/-- Concatenation as a number: `a ++ b` has `a` in the high bits (00_scope.md R6). -/
theorem append_toNat {m n : Nat} (a : BitVec m) (b : BitVec n) : (a ++ b).toNat = a.toNat * 2 ^ n + b.toNat := by
  rw [BitVec.toNat_append, ← Nat.shiftLeft_add_eq_or_of_lt b.isLt, Nat.shiftLeft_eq]

theorem wordNNN_toNat (f : BitVec 4) (a : BitVec 12) : (wordNNN f a).toNat = f.toNat * 4096 + a.toNat :=
  append_toNat f a

theorem wordXNN_toNat (f x : BitVec 4) (b : Byte) :
    (wordXNN f x b).toNat = f.toNat * 4096 + (x.toNat * 256 + b.toNat) := by
  rw [show (wordXNN f x b).toNat = f.toNat * 4096 + (x ++ b : BitVec 12).toNat from append_toNat ..]
  rw [show (x ++ b : BitVec 12).toNat = x.toNat * 256 + b.toNat from append_toNat ..]

theorem wordXYN_toNat (f x y n : BitVec 4) :
    (wordXYN f x y n).toNat = f.toNat * 4096 + (x.toNat * 256 + (y.toNat * 16 + n.toNat)) := by
  rw [show (wordXYN f x y n).toNat = f.toNat * 4096 + (x ++ (y ++ n : BitVec 8) : BitVec 12).toNat from append_toNat ..]
  rw [show (x ++ (y ++ n : BitVec 8) : BitVec 12).toNat = x.toNat * 256 + (y ++ n : BitVec 8).toNat from append_toNat ..]
  rw [show (y ++ n : BitVec 8).toNat = y.toNat * 16 + n.toNat from append_toNat ..]

theorem wordOfBytes_toNat (hi lo : Byte) : (wordOfBytes hi lo).toNat = hi.toNat * 256 + lo.toNat :=
  append_toNat hi lo

theorem fieldFamily_toNat (w : Word) : (fieldFamily w).toNat = w.toNat / 4096 := by
  have := w.isLt
  simp only [fieldFamily, BitVec.extractLsb'_toNat, Nat.shiftRight_eq_div_pow]
  omega

theorem fieldX_toNat (w : Word) : (fieldX w).toNat = w.toNat / 256 % 16 := by
  simp [fieldX, BitVec.extractLsb'_toNat, Nat.shiftRight_eq_div_pow]

theorem fieldY_toNat (w : Word) : (fieldY w).toNat = w.toNat / 16 % 16 := by
  simp [fieldY, BitVec.extractLsb'_toNat, Nat.shiftRight_eq_div_pow]

theorem fieldN_toNat (w : Word) : (fieldN w).toNat = w.toNat % 16 := by
  simp [fieldN, BitVec.extractLsb'_toNat]

theorem fieldNN_toNat (w : Word) : (fieldNN w).toNat = w.toNat % 256 := by
  simp [fieldNN, BitVec.extractLsb'_toNat]

theorem fieldNNN_toNat (w : Word) : (fieldNNN w).toNat = w.toNat % 4096 := by
  simp [fieldNNN, BitVec.extractLsb'_toNat]

theorem highByte_toNat (w : Word) : (highByte w).toNat = w.toNat / 256 := by
  have := w.isLt
  simp only [highByte, BitVec.extractLsb'_toNat, Nat.shiftRight_eq_div_pow]
  omega

theorem lowByte_toNat (w : Word) : (lowByte w).toNat = w.toNat % 256 := by
  simp [lowByte, BitVec.extractLsb'_toNat]

/-- A word is its two bytes, high byte first (R64). -/
@[simp] theorem wordOfBytes_high_low (w : Word) : wordOfBytes (highByte w) (lowByte w) = w := by
  apply BitVec.eq_of_toNat_eq
  rw [wordOfBytes_toNat, highByte_toNat, lowByte_toNat]
  omega

/-! ### The fields of a format's word -/

section fields
variable (f x y n : BitVec 4) (b : Byte) (a : BitVec 12)

@[simp] theorem fieldFamily_wordNNN : fieldFamily (wordNNN f a) = f := by
  apply BitVec.eq_of_toNat_eq; rw [fieldFamily_toNat, wordNNN_toNat]; omega

@[simp] theorem fieldNNN_wordNNN : fieldNNN (wordNNN f a) = a := by
  apply BitVec.eq_of_toNat_eq; rw [fieldNNN_toNat, wordNNN_toNat]; omega

@[simp] theorem fieldFamily_wordXNN : fieldFamily (wordXNN f x b) = f := by
  apply BitVec.eq_of_toNat_eq; rw [fieldFamily_toNat, wordXNN_toNat]; omega

@[simp] theorem fieldX_wordXNN : fieldX (wordXNN f x b) = x := by
  apply BitVec.eq_of_toNat_eq; rw [fieldX_toNat, wordXNN_toNat]; omega

@[simp] theorem fieldNN_wordXNN : fieldNN (wordXNN f x b) = b := by
  apply BitVec.eq_of_toNat_eq; rw [fieldNN_toNat, wordXNN_toNat]; omega

@[simp] theorem fieldFamily_wordXYN : fieldFamily (wordXYN f x y n) = f := by
  apply BitVec.eq_of_toNat_eq; rw [fieldFamily_toNat, wordXYN_toNat]; omega

@[simp] theorem fieldX_wordXYN : fieldX (wordXYN f x y n) = x := by
  apply BitVec.eq_of_toNat_eq; rw [fieldX_toNat, wordXYN_toNat]; omega

@[simp] theorem fieldY_wordXYN : fieldY (wordXYN f x y n) = y := by
  apply BitVec.eq_of_toNat_eq; rw [fieldY_toNat, wordXYN_toNat]; omega

@[simp] theorem fieldN_wordXYN : fieldN (wordXYN f x y n) = n := by
  apply BitVec.eq_of_toNat_eq; rw [fieldN_toNat, wordXYN_toNat]; omega

end fields

/-! ### A word from its fields -/

theorem wordNNN_fields (w : Word) : wordNNN (fieldFamily w) (fieldNNN w) = w := by
  apply BitVec.eq_of_toNat_eq; rw [wordNNN_toNat, fieldFamily_toNat, fieldNNN_toNat]; omega

theorem wordXNN_fields (w : Word) : wordXNN (fieldFamily w) (fieldX w) (fieldNN w) = w := by
  apply BitVec.eq_of_toNat_eq; rw [wordXNN_toNat, fieldFamily_toNat, fieldX_toNat, fieldNN_toNat]; omega

theorem wordXYN_fields (w : Word) : wordXYN (fieldFamily w) (fieldX w) (fieldY w) (fieldN w) = w := by
  apply BitVec.eq_of_toNat_eq
  rw [wordXYN_toNat, fieldFamily_toNat, fieldX_toNat, fieldY_toNat, fieldN_toNat]; omega

end Sys2Proof
end

