-- ==== Sys2Proof/Laws/State.lean ====
section
/-!
SUPPORT. What each update of the state does to each field, so that no later proof unfolds a record update; after the
table, the register file, and the composite operations as the updates they are made of.
-/

namespace Sys2Proof.Machine

variable (s : State)

/-! ### setV -/

@[simp] theorem State.setV_cfg (r : RegNo) (b : Byte) : (s.setV r b).cfg = s.cfg := rfl
@[simp] theorem State.setV_v (r : RegNo) (b : Byte) : (s.setV r b).v = s.v.set r.toNat b := rfl
@[simp] theorem State.setV_i (r : RegNo) (b : Byte) : (s.setV r b).i = s.i := rfl
@[simp] theorem State.setV_pc (r : RegNo) (b : Byte) : (s.setV r b).pc = s.pc := rfl
@[simp] theorem State.setV_stack (r : RegNo) (b : Byte) : (s.setV r b).stack = s.stack := rfl
@[simp] theorem State.setV_sp (r : RegNo) (b : Byte) : (s.setV r b).sp = s.sp := rfl
@[simp] theorem State.setV_dt (r : RegNo) (b : Byte) : (s.setV r b).dt = s.dt := rfl
@[simp] theorem State.setV_st (r : RegNo) (b : Byte) : (s.setV r b).st = s.st := rfl
@[simp] theorem State.setV_fb (r : RegNo) (b : Byte) : (s.setV r b).fb = s.fb := rfl
@[simp] theorem State.setV_keys (r : RegNo) (b : Byte) : (s.setV r b).keys = s.keys := rfl
@[simp] theorem State.setV_mode (r : RegNo) (b : Byte) : (s.setV r b).mode = s.mode := rfl
@[simp] theorem State.setV_waitX (r : RegNo) (b : Byte) : (s.setV r b).waitX = s.waitX := rfl
@[simp] theorem State.setV_halt (r : RegNo) (b : Byte) : (s.setV r b).halt = s.halt := rfl
@[simp] theorem State.setV_frameStart (r : RegNo) (b : Byte) : (s.setV r b).frameStart = s.frameStart := rfl
@[simp] theorem State.setV_tnow (r : RegNo) (b : Byte) : (s.setV r b).tnow = s.tnow := rfl
@[simp] theorem State.setV_mem (r : RegNo) (b : Byte) : (s.setV r b).mem = s.mem := rfl
@[simp] theorem State.setV_rnd (r : RegNo) (b : Byte) : (s.setV r b).rnd = s.rnd := rfl
@[simp] theorem State.setV_events (r : RegNo) (b : Byte) : (s.setV r b).events = s.events := rfl
@[simp] theorem State.setV_held (r : RegNo) (b : Byte) : (s.setV r b).held = s.held := rfl
@[simp] theorem State.setV_inputs (r : RegNo) (b : Byte) : (s.setV r b).inputs = s.inputs := rfl
@[simp] theorem State.setV_draws (r : RegNo) (b : Byte) : (s.setV r b).draws = s.draws := rfl
@[simp] theorem State.setV_memRead (r : RegNo) (b : Byte) (n : Nat) : (s.setV r b).memRead n = s.memRead n := rfl

/-! ### setPc -/

@[simp] theorem State.setPc_cfg (p : Word) : (s.setPc p).cfg = s.cfg := rfl
@[simp] theorem State.setPc_v (p : Word) : (s.setPc p).v = s.v := rfl
@[simp] theorem State.setPc_i (p : Word) : (s.setPc p).i = s.i := rfl
@[simp] theorem State.setPc_pc (p : Word) : (s.setPc p).pc = p := rfl
@[simp] theorem State.setPc_stack (p : Word) : (s.setPc p).stack = s.stack := rfl
@[simp] theorem State.setPc_sp (p : Word) : (s.setPc p).sp = s.sp := rfl
@[simp] theorem State.setPc_dt (p : Word) : (s.setPc p).dt = s.dt := rfl
@[simp] theorem State.setPc_st (p : Word) : (s.setPc p).st = s.st := rfl
@[simp] theorem State.setPc_fb (p : Word) : (s.setPc p).fb = s.fb := rfl
@[simp] theorem State.setPc_keys (p : Word) : (s.setPc p).keys = s.keys := rfl
@[simp] theorem State.setPc_mode (p : Word) : (s.setPc p).mode = s.mode := rfl
@[simp] theorem State.setPc_waitX (p : Word) : (s.setPc p).waitX = s.waitX := rfl
@[simp] theorem State.setPc_halt (p : Word) : (s.setPc p).halt = s.halt := rfl
@[simp] theorem State.setPc_frameStart (p : Word) : (s.setPc p).frameStart = s.frameStart := rfl
@[simp] theorem State.setPc_tnow (p : Word) : (s.setPc p).tnow = s.tnow := rfl
@[simp] theorem State.setPc_mem (p : Word) : (s.setPc p).mem = s.mem := rfl
@[simp] theorem State.setPc_rnd (p : Word) : (s.setPc p).rnd = s.rnd := rfl
@[simp] theorem State.setPc_events (p : Word) : (s.setPc p).events = s.events := rfl
@[simp] theorem State.setPc_held (p : Word) : (s.setPc p).held = s.held := rfl
@[simp] theorem State.setPc_inputs (p : Word) : (s.setPc p).inputs = s.inputs := rfl
@[simp] theorem State.setPc_draws (p : Word) : (s.setPc p).draws = s.draws := rfl
@[simp] theorem State.setPc_getV (p : Word) (q : RegNo) : (s.setPc p).getV q = s.getV q := rfl
@[simp] theorem State.setPc_memRead (p : Word) (n : Nat) : (s.setPc p).memRead n = s.memRead n := rfl

/-! ### setI -/

@[simp] theorem State.setI_cfg (w : Word) : (s.setI w).cfg = s.cfg := rfl
@[simp] theorem State.setI_v (w : Word) : (s.setI w).v = s.v := rfl
@[simp] theorem State.setI_i (w : Word) : (s.setI w).i = w := rfl
@[simp] theorem State.setI_pc (w : Word) : (s.setI w).pc = s.pc := rfl
@[simp] theorem State.setI_stack (w : Word) : (s.setI w).stack = s.stack := rfl
@[simp] theorem State.setI_sp (w : Word) : (s.setI w).sp = s.sp := rfl
@[simp] theorem State.setI_dt (w : Word) : (s.setI w).dt = s.dt := rfl
@[simp] theorem State.setI_st (w : Word) : (s.setI w).st = s.st := rfl
@[simp] theorem State.setI_fb (w : Word) : (s.setI w).fb = s.fb := rfl
@[simp] theorem State.setI_keys (w : Word) : (s.setI w).keys = s.keys := rfl
@[simp] theorem State.setI_mode (w : Word) : (s.setI w).mode = s.mode := rfl
@[simp] theorem State.setI_waitX (w : Word) : (s.setI w).waitX = s.waitX := rfl
@[simp] theorem State.setI_halt (w : Word) : (s.setI w).halt = s.halt := rfl
@[simp] theorem State.setI_frameStart (w : Word) : (s.setI w).frameStart = s.frameStart := rfl
@[simp] theorem State.setI_tnow (w : Word) : (s.setI w).tnow = s.tnow := rfl
@[simp] theorem State.setI_mem (w : Word) : (s.setI w).mem = s.mem := rfl
@[simp] theorem State.setI_rnd (w : Word) : (s.setI w).rnd = s.rnd := rfl
@[simp] theorem State.setI_events (w : Word) : (s.setI w).events = s.events := rfl
@[simp] theorem State.setI_held (w : Word) : (s.setI w).held = s.held := rfl
@[simp] theorem State.setI_inputs (w : Word) : (s.setI w).inputs = s.inputs := rfl
@[simp] theorem State.setI_draws (w : Word) : (s.setI w).draws = s.draws := rfl
@[simp] theorem State.setI_getV (w : Word) (q : RegNo) : (s.setI w).getV q = s.getV q := rfl
@[simp] theorem State.setI_memRead (w : Word) (n : Nat) : (s.setI w).memRead n = s.memRead n := rfl

/-! ### memWrite -/

@[simp] theorem State.memWrite_cfg (a : Nat) (b : Byte) : (s.memWrite a b).cfg = s.cfg := rfl
@[simp] theorem State.memWrite_v (a : Nat) (b : Byte) : (s.memWrite a b).v = s.v := rfl
@[simp] theorem State.memWrite_i (a : Nat) (b : Byte) : (s.memWrite a b).i = s.i := rfl
@[simp] theorem State.memWrite_pc (a : Nat) (b : Byte) : (s.memWrite a b).pc = s.pc := rfl
@[simp] theorem State.memWrite_stack (a : Nat) (b : Byte) : (s.memWrite a b).stack = s.stack := rfl
@[simp] theorem State.memWrite_sp (a : Nat) (b : Byte) : (s.memWrite a b).sp = s.sp := rfl
@[simp] theorem State.memWrite_dt (a : Nat) (b : Byte) : (s.memWrite a b).dt = s.dt := rfl
@[simp] theorem State.memWrite_st (a : Nat) (b : Byte) : (s.memWrite a b).st = s.st := rfl
@[simp] theorem State.memWrite_fb (a : Nat) (b : Byte) : (s.memWrite a b).fb = s.fb := rfl
@[simp] theorem State.memWrite_keys (a : Nat) (b : Byte) : (s.memWrite a b).keys = s.keys := rfl
@[simp] theorem State.memWrite_mode (a : Nat) (b : Byte) : (s.memWrite a b).mode = s.mode := rfl
@[simp] theorem State.memWrite_waitX (a : Nat) (b : Byte) : (s.memWrite a b).waitX = s.waitX := rfl
@[simp] theorem State.memWrite_halt (a : Nat) (b : Byte) : (s.memWrite a b).halt = s.halt := rfl
@[simp] theorem State.memWrite_frameStart (a : Nat) (b : Byte) : (s.memWrite a b).frameStart = s.frameStart := rfl
@[simp] theorem State.memWrite_tnow (a : Nat) (b : Byte) : (s.memWrite a b).tnow = s.tnow := rfl
@[simp] theorem State.memWrite_mem (a : Nat) (b : Byte) : (s.memWrite a b).mem = memoryWrite s.cfg s.mem (effectiveAddress a) b := rfl
@[simp] theorem State.memWrite_rnd (a : Nat) (b : Byte) : (s.memWrite a b).rnd = s.rnd := rfl
@[simp] theorem State.memWrite_events (a : Nat) (b : Byte) : (s.memWrite a b).events = s.events := rfl
@[simp] theorem State.memWrite_held (a : Nat) (b : Byte) : (s.memWrite a b).held = s.held := rfl
@[simp] theorem State.memWrite_inputs (a : Nat) (b : Byte) : (s.memWrite a b).inputs = s.inputs := rfl
@[simp] theorem State.memWrite_draws (a : Nat) (b : Byte) : (s.memWrite a b).draws = s.draws := rfl
@[simp] theorem State.memWrite_getV (a : Nat) (b : Byte) (q : RegNo) : (s.memWrite a b).getV q = s.getV q := rfl

/-! ### setFb -/

@[simp] theorem State.setFb_cfg (f : Framebuffer) : (s.setFb f).cfg = s.cfg := rfl
@[simp] theorem State.setFb_v (f : Framebuffer) : (s.setFb f).v = s.v := rfl
@[simp] theorem State.setFb_i (f : Framebuffer) : (s.setFb f).i = s.i := rfl
@[simp] theorem State.setFb_pc (f : Framebuffer) : (s.setFb f).pc = s.pc := rfl
@[simp] theorem State.setFb_stack (f : Framebuffer) : (s.setFb f).stack = s.stack := rfl
@[simp] theorem State.setFb_sp (f : Framebuffer) : (s.setFb f).sp = s.sp := rfl
@[simp] theorem State.setFb_dt (f : Framebuffer) : (s.setFb f).dt = s.dt := rfl
@[simp] theorem State.setFb_st (f : Framebuffer) : (s.setFb f).st = s.st := rfl
@[simp] theorem State.setFb_fb (f : Framebuffer) : (s.setFb f).fb = f := rfl
@[simp] theorem State.setFb_keys (f : Framebuffer) : (s.setFb f).keys = s.keys := rfl
@[simp] theorem State.setFb_mode (f : Framebuffer) : (s.setFb f).mode = s.mode := rfl
@[simp] theorem State.setFb_waitX (f : Framebuffer) : (s.setFb f).waitX = s.waitX := rfl
@[simp] theorem State.setFb_halt (f : Framebuffer) : (s.setFb f).halt = s.halt := rfl
@[simp] theorem State.setFb_frameStart (f : Framebuffer) : (s.setFb f).frameStart = s.frameStart := rfl
@[simp] theorem State.setFb_tnow (f : Framebuffer) : (s.setFb f).tnow = s.tnow := rfl
@[simp] theorem State.setFb_mem (f : Framebuffer) : (s.setFb f).mem = s.mem := rfl
@[simp] theorem State.setFb_rnd (f : Framebuffer) : (s.setFb f).rnd = s.rnd := rfl
@[simp] theorem State.setFb_events (f : Framebuffer) : (s.setFb f).events = s.events := rfl
@[simp] theorem State.setFb_held (f : Framebuffer) : (s.setFb f).held = s.held := rfl
@[simp] theorem State.setFb_inputs (f : Framebuffer) : (s.setFb f).inputs = s.inputs := rfl
@[simp] theorem State.setFb_draws (f : Framebuffer) : (s.setFb f).draws = s.draws := rfl
@[simp] theorem State.setFb_getV (f : Framebuffer) (q : RegNo) : (s.setFb f).getV q = s.getV q := rfl
@[simp] theorem State.setFb_memRead (f : Framebuffer) (n : Nat) : (s.setFb f).memRead n = s.memRead n := rfl

/-! ### emit -/

@[simp] theorem State.emit_cfg (e : Event) : (s.emit e).cfg = s.cfg := rfl
@[simp] theorem State.emit_v (e : Event) : (s.emit e).v = s.v := rfl
@[simp] theorem State.emit_i (e : Event) : (s.emit e).i = s.i := rfl
@[simp] theorem State.emit_pc (e : Event) : (s.emit e).pc = s.pc := rfl
@[simp] theorem State.emit_stack (e : Event) : (s.emit e).stack = s.stack := rfl
@[simp] theorem State.emit_sp (e : Event) : (s.emit e).sp = s.sp := rfl
@[simp] theorem State.emit_dt (e : Event) : (s.emit e).dt = s.dt := rfl
@[simp] theorem State.emit_st (e : Event) : (s.emit e).st = s.st := rfl
@[simp] theorem State.emit_fb (e : Event) : (s.emit e).fb = s.fb := rfl
@[simp] theorem State.emit_keys (e : Event) : (s.emit e).keys = s.keys := rfl
@[simp] theorem State.emit_mode (e : Event) : (s.emit e).mode = s.mode := rfl
@[simp] theorem State.emit_waitX (e : Event) : (s.emit e).waitX = s.waitX := rfl
@[simp] theorem State.emit_halt (e : Event) : (s.emit e).halt = s.halt := rfl
@[simp] theorem State.emit_frameStart (e : Event) : (s.emit e).frameStart = s.frameStart := rfl
@[simp] theorem State.emit_tnow (e : Event) : (s.emit e).tnow = s.tnow := rfl
@[simp] theorem State.emit_mem (e : Event) : (s.emit e).mem = s.mem := rfl
@[simp] theorem State.emit_rnd (e : Event) : (s.emit e).rnd = s.rnd := rfl
@[simp] theorem State.emit_events (e : Event) : (s.emit e).events = s.events ++ [e] := rfl
@[simp] theorem State.emit_held (e : Event) : (s.emit e).held = s.held := rfl
@[simp] theorem State.emit_inputs (e : Event) : (s.emit e).inputs = s.inputs := rfl
@[simp] theorem State.emit_draws (e : Event) : (s.emit e).draws = s.draws := rfl
@[simp] theorem State.emit_getV (e : Event) (q : RegNo) : (s.emit e).getV q = s.getV q := rfl
@[simp] theorem State.emit_memRead (e : Event) (n : Nat) : (s.emit e).memRead n = s.memRead n := rfl

/-! ### setDT -/

@[simp] theorem State.setDT_cfg (m : Timer) : (s.setDT m).cfg = s.cfg := rfl
@[simp] theorem State.setDT_v (m : Timer) : (s.setDT m).v = s.v := rfl
@[simp] theorem State.setDT_i (m : Timer) : (s.setDT m).i = s.i := rfl
@[simp] theorem State.setDT_pc (m : Timer) : (s.setDT m).pc = s.pc := rfl
@[simp] theorem State.setDT_stack (m : Timer) : (s.setDT m).stack = s.stack := rfl
@[simp] theorem State.setDT_sp (m : Timer) : (s.setDT m).sp = s.sp := rfl
@[simp] theorem State.setDT_dt (m : Timer) : (s.setDT m).dt = m := rfl
@[simp] theorem State.setDT_st (m : Timer) : (s.setDT m).st = s.st := rfl
@[simp] theorem State.setDT_fb (m : Timer) : (s.setDT m).fb = s.fb := rfl
@[simp] theorem State.setDT_keys (m : Timer) : (s.setDT m).keys = s.keys := rfl
@[simp] theorem State.setDT_mode (m : Timer) : (s.setDT m).mode = s.mode := rfl
@[simp] theorem State.setDT_waitX (m : Timer) : (s.setDT m).waitX = s.waitX := rfl
@[simp] theorem State.setDT_halt (m : Timer) : (s.setDT m).halt = s.halt := rfl
@[simp] theorem State.setDT_frameStart (m : Timer) : (s.setDT m).frameStart = s.frameStart := rfl
@[simp] theorem State.setDT_tnow (m : Timer) : (s.setDT m).tnow = s.tnow := rfl
@[simp] theorem State.setDT_mem (m : Timer) : (s.setDT m).mem = s.mem := rfl
@[simp] theorem State.setDT_rnd (m : Timer) : (s.setDT m).rnd = s.rnd := rfl
@[simp] theorem State.setDT_events (m : Timer) : (s.setDT m).events = s.events := rfl
@[simp] theorem State.setDT_held (m : Timer) : (s.setDT m).held = s.held := rfl
@[simp] theorem State.setDT_inputs (m : Timer) : (s.setDT m).inputs = s.inputs := rfl
@[simp] theorem State.setDT_draws (m : Timer) : (s.setDT m).draws = s.draws := rfl
@[simp] theorem State.setDT_getV (m : Timer) (q : RegNo) : (s.setDT m).getV q = s.getV q := rfl
@[simp] theorem State.setDT_memRead (m : Timer) (n : Nat) : (s.setDT m).memRead n = s.memRead n := rfl

/-! ### setST -/

@[simp] theorem State.setST_cfg (m : Timer) : (s.setST m).cfg = s.cfg := rfl
@[simp] theorem State.setST_v (m : Timer) : (s.setST m).v = s.v := rfl
@[simp] theorem State.setST_i (m : Timer) : (s.setST m).i = s.i := rfl
@[simp] theorem State.setST_pc (m : Timer) : (s.setST m).pc = s.pc := rfl
@[simp] theorem State.setST_stack (m : Timer) : (s.setST m).stack = s.stack := rfl
@[simp] theorem State.setST_sp (m : Timer) : (s.setST m).sp = s.sp := rfl
@[simp] theorem State.setST_dt (m : Timer) : (s.setST m).dt = s.dt := rfl
@[simp] theorem State.setST_st (m : Timer) : (s.setST m).st = m := rfl
@[simp] theorem State.setST_fb (m : Timer) : (s.setST m).fb = s.fb := rfl
@[simp] theorem State.setST_keys (m : Timer) : (s.setST m).keys = s.keys := rfl
@[simp] theorem State.setST_mode (m : Timer) : (s.setST m).mode = s.mode := rfl
@[simp] theorem State.setST_waitX (m : Timer) : (s.setST m).waitX = s.waitX := rfl
@[simp] theorem State.setST_halt (m : Timer) : (s.setST m).halt = s.halt := rfl
@[simp] theorem State.setST_frameStart (m : Timer) : (s.setST m).frameStart = s.frameStart := rfl
@[simp] theorem State.setST_tnow (m : Timer) : (s.setST m).tnow = s.tnow := rfl
@[simp] theorem State.setST_mem (m : Timer) : (s.setST m).mem = s.mem := rfl
@[simp] theorem State.setST_rnd (m : Timer) : (s.setST m).rnd = s.rnd := rfl
@[simp] theorem State.setST_events (m : Timer) : (s.setST m).events = s.events := rfl
@[simp] theorem State.setST_held (m : Timer) : (s.setST m).held = s.held := rfl
@[simp] theorem State.setST_inputs (m : Timer) : (s.setST m).inputs = s.inputs := rfl
@[simp] theorem State.setST_draws (m : Timer) : (s.setST m).draws = s.draws := rfl
@[simp] theorem State.setST_getV (m : Timer) (q : RegNo) : (s.setST m).getV q = s.getV q := rfl
@[simp] theorem State.setST_memRead (m : Timer) (n : Nat) : (s.setST m).memRead n = s.memRead n := rfl

/-! ### setWait -/

@[simp] theorem State.setWait_cfg (m : Mode) (x : RegNo) : (s.setWait m x).cfg = s.cfg := rfl
@[simp] theorem State.setWait_v (m : Mode) (x : RegNo) : (s.setWait m x).v = s.v := rfl
@[simp] theorem State.setWait_i (m : Mode) (x : RegNo) : (s.setWait m x).i = s.i := rfl
@[simp] theorem State.setWait_pc (m : Mode) (x : RegNo) : (s.setWait m x).pc = s.pc := rfl
@[simp] theorem State.setWait_stack (m : Mode) (x : RegNo) : (s.setWait m x).stack = s.stack := rfl
@[simp] theorem State.setWait_sp (m : Mode) (x : RegNo) : (s.setWait m x).sp = s.sp := rfl
@[simp] theorem State.setWait_dt (m : Mode) (x : RegNo) : (s.setWait m x).dt = s.dt := rfl
@[simp] theorem State.setWait_st (m : Mode) (x : RegNo) : (s.setWait m x).st = s.st := rfl
@[simp] theorem State.setWait_fb (m : Mode) (x : RegNo) : (s.setWait m x).fb = s.fb := rfl
@[simp] theorem State.setWait_keys (m : Mode) (x : RegNo) : (s.setWait m x).keys = s.keys := rfl
@[simp] theorem State.setWait_mode (m : Mode) (x : RegNo) : (s.setWait m x).mode = m := rfl
@[simp] theorem State.setWait_waitX (m : Mode) (x : RegNo) : (s.setWait m x).waitX = x := rfl
@[simp] theorem State.setWait_halt (m : Mode) (x : RegNo) : (s.setWait m x).halt = s.halt := rfl
@[simp] theorem State.setWait_frameStart (m : Mode) (x : RegNo) : (s.setWait m x).frameStart = s.frameStart := rfl
@[simp] theorem State.setWait_tnow (m : Mode) (x : RegNo) : (s.setWait m x).tnow = s.tnow := rfl
@[simp] theorem State.setWait_mem (m : Mode) (x : RegNo) : (s.setWait m x).mem = s.mem := rfl
@[simp] theorem State.setWait_rnd (m : Mode) (x : RegNo) : (s.setWait m x).rnd = s.rnd := rfl
@[simp] theorem State.setWait_events (m : Mode) (x : RegNo) : (s.setWait m x).events = s.events := rfl
@[simp] theorem State.setWait_held (m : Mode) (x : RegNo) : (s.setWait m x).held = s.held := rfl
@[simp] theorem State.setWait_inputs (m : Mode) (x : RegNo) : (s.setWait m x).inputs = s.inputs := rfl
@[simp] theorem State.setWait_draws (m : Mode) (x : RegNo) : (s.setWait m x).draws = s.draws := rfl
@[simp] theorem State.setWait_getV (m : Mode) (x : RegNo) (q : RegNo) : (s.setWait m x).getV q = s.getV q := rfl
@[simp] theorem State.setWait_memRead (m : Mode) (x : RegNo) (n : Nat) : (s.setWait m x).memRead n = s.memRead n := rfl

/-! ### raise -/

@[simp] theorem State.raise_cfg (c : Cause) (w p : Word) : (s.raise c w p).cfg = s.cfg := rfl
@[simp] theorem State.raise_v (c : Cause) (w p : Word) : (s.raise c w p).v = s.v := rfl
@[simp] theorem State.raise_i (c : Cause) (w p : Word) : (s.raise c w p).i = s.i := rfl
@[simp] theorem State.raise_pc (c : Cause) (w p : Word) : (s.raise c w p).pc = s.pc := rfl
@[simp] theorem State.raise_stack (c : Cause) (w p : Word) : (s.raise c w p).stack = s.stack := rfl
@[simp] theorem State.raise_sp (c : Cause) (w p : Word) : (s.raise c w p).sp = s.sp := rfl
@[simp] theorem State.raise_dt (c : Cause) (w p : Word) : (s.raise c w p).dt = s.dt := rfl
@[simp] theorem State.raise_st (c : Cause) (w p : Word) : (s.raise c w p).st = s.st := rfl
@[simp] theorem State.raise_fb (c : Cause) (w p : Word) : (s.raise c w p).fb = s.fb := rfl
@[simp] theorem State.raise_keys (c : Cause) (w p : Word) : (s.raise c w p).keys = s.keys := rfl
@[simp] theorem State.raise_mode (c : Cause) (w p : Word) : (s.raise c w p).mode = .halt := rfl
@[simp] theorem State.raise_waitX (c : Cause) (w p : Word) : (s.raise c w p).waitX = s.waitX := rfl
@[simp] theorem State.raise_halt (c : Cause) (w p : Word) : (s.raise c w p).halt = { cause := c, word := w, pc := p } := rfl
@[simp] theorem State.raise_frameStart (c : Cause) (w p : Word) : (s.raise c w p).frameStart = s.frameStart := rfl
@[simp] theorem State.raise_tnow (c : Cause) (w p : Word) : (s.raise c w p).tnow = s.tnow := rfl
@[simp] theorem State.raise_mem (c : Cause) (w p : Word) : (s.raise c w p).mem = s.mem := rfl
@[simp] theorem State.raise_rnd (c : Cause) (w p : Word) : (s.raise c w p).rnd = s.rnd := rfl
@[simp] theorem State.raise_events (c : Cause) (w p : Word) : (s.raise c w p).events = s.events := rfl
@[simp] theorem State.raise_held (c : Cause) (w p : Word) : (s.raise c w p).held = s.held := rfl
@[simp] theorem State.raise_inputs (c : Cause) (w p : Word) : (s.raise c w p).inputs = s.inputs := rfl
@[simp] theorem State.raise_draws (c : Cause) (w p : Word) : (s.raise c w p).draws = s.draws := rfl
@[simp] theorem State.raise_getV (c : Cause) (w p : Word) (q : RegNo) : (s.raise c w p).getV q = s.getV q := rfl
@[simp] theorem State.raise_memRead (c : Cause) (w p : Word) (n : Nat) : (s.raise c w p).memRead n = s.memRead n := rfl

/-! ### takeSample -/

@[simp] theorem State.takeSample_cfg (e : Env) : (s.takeSample e).cfg = s.cfg := rfl
@[simp] theorem State.takeSample_v (e : Env) : (s.takeSample e).v = s.v := rfl
@[simp] theorem State.takeSample_i (e : Env) : (s.takeSample e).i = s.i := rfl
@[simp] theorem State.takeSample_pc (e : Env) : (s.takeSample e).pc = s.pc := rfl
@[simp] theorem State.takeSample_stack (e : Env) : (s.takeSample e).stack = s.stack := rfl
@[simp] theorem State.takeSample_sp (e : Env) : (s.takeSample e).sp = s.sp := rfl
@[simp] theorem State.takeSample_dt (e : Env) : (s.takeSample e).dt = s.dt := rfl
@[simp] theorem State.takeSample_st (e : Env) : (s.takeSample e).st = s.st := rfl
@[simp] theorem State.takeSample_fb (e : Env) : (s.takeSample e).fb = s.fb := rfl
@[simp] theorem State.takeSample_keys (e : Env) : (s.takeSample e).keys = e.keyIn := rfl
@[simp] theorem State.takeSample_mode (e : Env) : (s.takeSample e).mode = s.mode := rfl
@[simp] theorem State.takeSample_waitX (e : Env) : (s.takeSample e).waitX = s.waitX := rfl
@[simp] theorem State.takeSample_halt (e : Env) : (s.takeSample e).halt = s.halt := rfl
@[simp] theorem State.takeSample_frameStart (e : Env) : (s.takeSample e).frameStart = s.frameStart + s.cfg.t60 + e.late := rfl
@[simp] theorem State.takeSample_tnow (e : Env) : (s.takeSample e).tnow = s.frameStart + s.cfg.t60 + e.late := rfl
@[simp] theorem State.takeSample_mem (e : Env) : (s.takeSample e).mem = s.mem := rfl
@[simp] theorem State.takeSample_rnd (e : Env) : (s.takeSample e).rnd = e.rnd := rfl
@[simp] theorem State.takeSample_events (e : Env) : (s.takeSample e).events = s.events := rfl
@[simp] theorem State.takeSample_held (e : Env) : (s.takeSample e).held = s.held := rfl
@[simp] theorem State.takeSample_inputs (e : Env) : (s.takeSample e).inputs = s.inputs := rfl
@[simp] theorem State.takeSample_draws (e : Env) : (s.takeSample e).draws = s.draws := rfl
@[simp] theorem State.takeSample_getV (e : Env) (q : RegNo) : (s.takeSample e).getV q = s.getV q := rfl
@[simp] theorem State.takeSample_memRead (e : Env) (n : Nat) : (s.takeSample e).memRead n = s.memRead n := rfl

/-! ### countSample -/

@[simp] theorem State.countSample_cfg : s.countSample.cfg = s.cfg := rfl
@[simp] theorem State.countSample_v : s.countSample.v = s.v := rfl
@[simp] theorem State.countSample_i : s.countSample.i = s.i := rfl
@[simp] theorem State.countSample_pc : s.countSample.pc = s.pc := rfl
@[simp] theorem State.countSample_stack : s.countSample.stack = s.stack := rfl
@[simp] theorem State.countSample_sp : s.countSample.sp = s.sp := rfl
@[simp] theorem State.countSample_dt : s.countSample.dt = s.dt := rfl
@[simp] theorem State.countSample_st : s.countSample.st = s.st := rfl
@[simp] theorem State.countSample_fb : s.countSample.fb = s.fb := rfl
@[simp] theorem State.countSample_keys : s.countSample.keys = s.keys := rfl
@[simp] theorem State.countSample_mode : s.countSample.mode = s.mode := rfl
@[simp] theorem State.countSample_waitX : s.countSample.waitX = s.waitX := rfl
@[simp] theorem State.countSample_halt : s.countSample.halt = s.halt := rfl
@[simp] theorem State.countSample_frameStart : s.countSample.frameStart = s.frameStart := rfl
@[simp] theorem State.countSample_tnow : s.countSample.tnow = s.tnow := rfl
@[simp] theorem State.countSample_mem : s.countSample.mem = s.mem := rfl
@[simp] theorem State.countSample_rnd : s.countSample.rnd = s.rnd := rfl
@[simp] theorem State.countSample_events : s.countSample.events = s.events := rfl
@[simp] theorem State.countSample_held : s.countSample.held = s.held := rfl
@[simp] theorem State.countSample_inputs : s.countSample.inputs = s.inputs.tail := rfl
@[simp] theorem State.countSample_draws : s.countSample.draws = s.draws + 1 := rfl
@[simp] theorem State.countSample_getV (q : RegNo) : s.countSample.getV q = s.getV q := rfl
@[simp] theorem State.countSample_memRead (n : Nat) : s.countSample.memRead n = s.memRead n := rfl

/-! ### resetValues -/

@[simp] theorem State.resetValues_cfg (e : Env) : (s.resetValues e).cfg = s.cfg := rfl
@[simp] theorem State.resetValues_v (e : Env) : (s.resetValues e).v = Vector.replicate 16 0x00 := rfl
@[simp] theorem State.resetValues_i (e : Env) : (s.resetValues e).i = 0x0000 := rfl
@[simp] theorem State.resetValues_pc (e : Env) : (s.resetValues e).pc = 0x0200 := rfl
@[simp] theorem State.resetValues_stack (e : Env) : (s.resetValues e).stack = Vector.replicate 16 0x0000 := rfl
@[simp] theorem State.resetValues_sp (e : Env) : (s.resetValues e).sp = 0 := rfl
@[simp] theorem State.resetValues_dt (e : Env) : (s.resetValues e).dt = { val := 0x00, base := s.tnow + e.late } := rfl
@[simp] theorem State.resetValues_st (e : Env) : (s.resetValues e).st = { val := 0x00, base := s.tnow + e.late } := rfl
@[simp] theorem State.resetValues_fb (e : Env) : (s.resetValues e).fb = fbClear := rfl
@[simp] theorem State.resetValues_keys (e : Env) : (s.resetValues e).keys = 0x0000 := rfl
@[simp] theorem State.resetValues_mode (e : Env) : (s.resetValues e).mode = .run := rfl
@[simp] theorem State.resetValues_waitX (e : Env) : (s.resetValues e).waitX = 0x0 := rfl
@[simp] theorem State.resetValues_halt (e : Env) : (s.resetValues e).halt = { cause := .none, word := 0x0000, pc := 0x0000 } := rfl
@[simp] theorem State.resetValues_frameStart (e : Env) : (s.resetValues e).frameStart = s.tnow + e.late := rfl
@[simp] theorem State.resetValues_tnow (e : Env) : (s.resetValues e).tnow = s.tnow + e.late := rfl
@[simp] theorem State.resetValues_mem (e : Env) : (s.resetValues e).mem = imageMemory s.cfg e.image := rfl
@[simp] theorem State.resetValues_rnd (e : Env) : (s.resetValues e).rnd = 0x00 := rfl
@[simp] theorem State.resetValues_events (e : Env) : (s.resetValues e).events = [] := rfl
@[simp] theorem State.resetValues_held (e : Env) : (s.resetValues e).held = false := rfl
@[simp] theorem State.resetValues_inputs (e : Env) : (s.resetValues e).inputs = s.inputs := rfl
@[simp] theorem State.resetValues_draws (e : Env) : (s.resetValues e).draws = s.draws := rfl

@[simp] theorem State.hold_cfg (e : Env) : (s.hold e).cfg = (s.resetValues e).cfg := rfl
@[simp] theorem State.hold_v (e : Env) : (s.hold e).v = (s.resetValues e).v := rfl
@[simp] theorem State.hold_i (e : Env) : (s.hold e).i = (s.resetValues e).i := rfl
@[simp] theorem State.hold_pc (e : Env) : (s.hold e).pc = (s.resetValues e).pc := rfl
@[simp] theorem State.hold_stack (e : Env) : (s.hold e).stack = (s.resetValues e).stack := rfl
@[simp] theorem State.hold_sp (e : Env) : (s.hold e).sp = (s.resetValues e).sp := rfl
@[simp] theorem State.hold_dt (e : Env) : (s.hold e).dt = (s.resetValues e).dt := rfl
@[simp] theorem State.hold_st (e : Env) : (s.hold e).st = (s.resetValues e).st := rfl
@[simp] theorem State.hold_fb (e : Env) : (s.hold e).fb = (s.resetValues e).fb := rfl
@[simp] theorem State.hold_keys (e : Env) : (s.hold e).keys = (s.resetValues e).keys := rfl
@[simp] theorem State.hold_mode (e : Env) : (s.hold e).mode = (s.resetValues e).mode := rfl
@[simp] theorem State.hold_waitX (e : Env) : (s.hold e).waitX = (s.resetValues e).waitX := rfl
@[simp] theorem State.hold_halt (e : Env) : (s.hold e).halt = (s.resetValues e).halt := rfl
@[simp] theorem State.hold_frameStart (e : Env) : (s.hold e).frameStart = (s.resetValues e).frameStart := rfl
@[simp] theorem State.hold_tnow (e : Env) : (s.hold e).tnow = (s.resetValues e).tnow := rfl
@[simp] theorem State.hold_mem (e : Env) : (s.hold e).mem = (s.resetValues e).mem := rfl
@[simp] theorem State.hold_rnd (e : Env) : (s.hold e).rnd = (s.resetValues e).rnd := rfl
@[simp] theorem State.hold_events (e : Env) : (s.hold e).events = (s.resetValues e).events := rfl
@[simp] theorem State.hold_held (e : Env) : (s.hold e).held = true := rfl
@[simp] theorem State.hold_inputs (e : Env) : (s.hold e).inputs = (s.resetValues e).inputs := rfl
@[simp] theorem State.hold_draws (e : Env) : (s.hold e).draws = (s.resetValues e).draws := rfl

/-! ### The register file -/

/-- A register holds what was last written to it; every other register is left alone (R7, R20). -/
@[simp] theorem State.setV_getV (r q : RegNo) (b : Byte) :
    (s.setV r b).getV q = if q = r then b else s.getV q := by
  simp only [State.getV, State.setV, Vector.getElem_set]
  by_cases h : q = r
  · simp [h]
  · have : r.toNat ≠ q.toNat := fun e => h (BitVec.eq_of_toNat_eq e.symm)
    simp [h, this]

/-- Every general register is 0x00 at reset (R52). -/
@[simp] theorem State.resetValues_getV (e : Env) (r : RegNo) : (s.resetValues e).getV r = 0x00 := by
  simp [State.getV]

/-- The flag first, the result second: with X = 15 the result wins (R125). -/
theorem State.flagThenResult_getV (x q : RegNo) (f r : Byte) :
    (s.flagThenResult x f r).getV q = if q = x then r else if q = vf then f else s.getV q := by
  simp [State.flagThenResult]

/-! ### Composite operations -/

@[simp] theorem State.advance_eq : s.advance = s.setPc (s.pc + 2) := rfl

@[simp] theorem State.skipIf_eq (c : Bool) : s.skipIf c = s.setPc (if c then s.pc + 2 else s.pc) := rfl

@[simp] theorem State.flagThenResult_eq (x : RegNo) (f r : Byte) :
    s.flagThenResult x f r = (s.setV vf f).setV x r := rfl

@[simp] theorem State.raiseInstr_eq (c : Cause) (w : Word) : s.raiseInstr c w = s.raise c w (s.pc - 2) := rfl

@[simp] theorem State.raiseBare_eq (c : Cause) : s.raiseBare c = s.raise c 0x0000 s.pc := rfl

@[simp] theorem State.updateTimers_eq :
    s.updateTimers =
      (s.setDT (timerUpdate s.cfg.t60 s.tnow s.dt)).setST (timerUpdate s.cfg.t60 s.tnow s.st) := rfl

end Sys2Proof.Machine
end

