-- ==== Sys2Proof/Laws/Memory.lean ====
section
/-!
SUPPORT. The laws of memory: a read after a write (20_memory.md R62, R63, R71), and that every memory operation keeps
the canonical form.
-/

namespace Sys2Proof.Machine

theorem memoryRead_erase (c : Config) (m : Memory) (a n : Nat) :
    memoryRead c (memoryErase m a) n = if n = a then initialByte c a else memoryRead c m n := by
  induction m with
  | nil => by_cases h : n = a <;> simp [memoryErase, memoryRead, h]
  | cons cell m ih =>
    obtain ⟨b, w⟩ := cell
    by_cases hab : a = b
    · subst hab
      by_cases h : n = a
      · subst h; simpa [memoryErase] using ih
      · simp [memoryErase, memoryRead, ih, h, Ne.symm h]
    · by_cases hbn : b = n
      · subst hbn
        simp [memoryErase, memoryRead, hab, Ne.symm hab]
      · simp [memoryErase, memoryRead, hab, hbn, ih]

theorem memoryRead_insert (c : Config) (m : Memory) (a n : Nat) (v : Byte) :
    memoryRead c (memoryInsert m a v) n = if n = a then v else memoryRead c m n := by
  induction m with
  | nil => by_cases h : a = n <;> simp [memoryInsert, memoryRead, h, eq_comm (a := n)]
  | cons cell m ih =>
    obtain ⟨b, w⟩ := cell
    unfold memoryInsert
    split
    · by_cases h : a = n <;> simp [memoryRead, h, eq_comm (a := n)]
    · split
      · next hab => subst hab; by_cases h : a = n <;> simp [memoryRead, h, eq_comm (a := n)]
      · next hab =>
        by_cases hbn : b = n
        · subst hbn; simp [memoryRead, Ne.symm hab]
        · simp [memoryRead, hbn, ih]

/-- A write is read back, and leaves every other address alone. -/
theorem memoryRead_write (c : Config) (m : Memory) (a n : Nat) (v : Byte) :
    memoryRead c (memoryWrite c m a v) n = if n = a then v else memoryRead c m n := by
  unfold memoryWrite
  split
  · next h => rw [memoryRead_erase, h]
  · exact memoryRead_insert c m a n v

/-- `MemRead` after `MemWrite` (R62, R63), both addresses reduced (R61). -/
theorem State.memWrite_memRead (s : State) (a n : Nat) (b : Byte) :
    (s.memWrite a b).memRead n = if n % 4096 = a % 4096 then b else s.memRead n :=
  memoryRead_write s.cfg s.mem _ _ b

/-! ### The canonical form -/

theorem memoryWfFrom_mono {c : Config} {m : Memory} {lo lo' : Nat} (h : memoryWfFrom c lo m = true) (hl : lo' ≤ lo) :
    memoryWfFrom c lo' m = true := by
  cases m with
  | nil => rfl
  | cons cell m =>
    obtain ⟨b, v⟩ := cell
    simp only [memoryWfFrom, Bool.and_eq_true, decide_eq_true_eq] at h ⊢
    exact ⟨⟨⟨hl.trans h.1.1.1, h.1.1.2⟩, h.1.2⟩, h.2⟩

theorem memoryErase_wfFrom {c : Config} {m : Memory} {lo : Nat} (a : Nat) (h : memoryWfFrom c lo m = true) :
    memoryWfFrom c lo (memoryErase m a) = true := by
  induction m generalizing lo with
  | nil => rfl
  | cons cell m ih =>
    obtain ⟨b, v⟩ := cell
    simp only [memoryWfFrom, Bool.and_eq_true, decide_eq_true_eq] at h
    unfold memoryErase
    split
    · exact ih (memoryWfFrom_mono h.2 (by omega))
    · simp only [memoryWfFrom, Bool.and_eq_true, decide_eq_true_eq]
      exact ⟨h.1, ih h.2⟩

theorem memoryInsert_wfFrom {c : Config} {m : Memory} {lo a : Nat} {v : Byte} (ha : lo ≤ a) (hs : a < memSize)
    (hv : v ≠ initialByte c a) (h : memoryWfFrom c lo m = true) : memoryWfFrom c lo (memoryInsert m a v) = true := by
  induction m generalizing lo with
  | nil => simp [memoryInsert, memoryWfFrom, ha, hs, hv]
  | cons cell m ih =>
    obtain ⟨b, w⟩ := cell
    simp only [memoryWfFrom, Bool.and_eq_true, decide_eq_true_eq] at h
    unfold memoryInsert
    split
    · next hab =>
      simp only [memoryWfFrom, Bool.and_eq_true, decide_eq_true_eq]
      exact ⟨⟨⟨ha, hs⟩, hv⟩, ⟨⟨hab, h.1.1.2⟩, h.1.2⟩, h.2⟩
    · split
      · next hab =>
        subst hab
        simp only [memoryWfFrom, Bool.and_eq_true, decide_eq_true_eq]
        exact ⟨⟨⟨ha, hs⟩, hv⟩, h.2⟩
      · next hab =>
        simp only [memoryWfFrom, Bool.and_eq_true, decide_eq_true_eq]
        exact ⟨h.1, ih (by omega) h.2⟩

theorem memoryWrite_wf {c : Config} {m : Memory} {a : Nat} (v : Byte) (hs : a < memSize) (h : m.wf c = true) :
    (memoryWrite c m a v).wf c = true := by
  unfold memoryWrite
  split
  · exact memoryErase_wfFrom a h
  · next hv => exact memoryInsert_wfFrom (Nat.zero_le a) hs hv h

theorem effectiveAddress_lt (a : Nat) : effectiveAddress a < memSize := Nat.mod_lt _ (by decide)

theorem State.memWrite_wf {s : State} (a : Nat) (b : Byte) (h : s.mem.wf s.cfg = true) :
    (s.memWrite a b).mem.wf s.cfg = true :=
  memoryWrite_wf b (effectiveAddress_lt a) h

theorem memoryLoad_wf {c : Config} {m : Memory} (a : Nat) (bs : List Byte) (h : m.wf c = true) :
    (memoryLoad c m a bs).wf c = true := by
  induction bs generalizing m a with
  | nil => exact h
  | cons b bs ih => exact ih _ (memoryWrite_wf b (Nat.mod_lt _ (by decide)) h)

/-- What the loader writes is canonical (R273). -/
theorem imageMemory_wf (c : Config) (rom : List Byte) : (imageMemory c rom).wf c = true := by
  unfold imageMemory
  split
  · rfl
  · exact memoryLoad_wf _ _ rfl

/-- What a loaded image holds, as long as it does not wrap (R273). -/
theorem memoryRead_load (c : Config) (m : Memory) (a : Nat) (bs : List Byte) (n : Nat) (hfit : a + bs.length ≤ memSize) :
    memoryRead c (memoryLoad c m a bs) n =
      if h : a ≤ n ∧ n - a < bs.length then bs[n - a]'h.2 else memoryRead c m n := by
  induction bs generalizing m a with
  | nil => simp [memoryLoad]
  | cons b bs ih =>
    simp only [List.length_cons] at hfit
    have ha : a % memSize = a := Nat.mod_eq_of_lt (by omega)
    rw [memoryLoad, ih _ _ (by omega), ha]
    by_cases hn : n = a
    · subst hn
      rw [dif_neg (by omega), dif_pos (by simp)]
      simp [memoryRead_write]
    · by_cases h1 : a + 1 ≤ n ∧ n - (a + 1) < bs.length
      · rw [dif_pos h1, dif_pos (by simp only [List.length_cons]; omega)]
        have : n - a = (n - (a + 1)) + 1 := by omega
        simp only [this, List.getElem_cons_succ]
      · rw [dif_neg h1, dif_neg (by simp only [List.length_cons]; omega), memoryRead_write, if_neg hn]

/-! ### The block transfers -/

/-- `storeBlock` writes memory and nothing else. -/
theorem State.storeBlock_eq (s : State) (n : Nat) : s.storeBlock n = { s with mem := (s.storeBlock n).mem } := by
  induction n with
  | zero => rfl
  | succ n ih => rw [State.storeBlock, State.memWrite, ih]

/-- `loadBlock` writes general registers and nothing else. -/
theorem State.loadBlock_eq (s : State) (n : Nat) : s.loadBlock n = { s with v := (s.loadBlock n).v } := by
  induction n with
  | zero => rfl
  | succ n ih => rw [State.loadBlock, State.setV, ih]

/-- FX55 (R178): what each address holds afterwards. -/
theorem State.storeBlock_memRead (s : State) (n a : Nat) (hn : n ≤ 16) :
    (∀ k, k < n → (s.storeBlock n).memRead (s.indexed k) = s.getV (BitVec.ofNat 4 k)) ∧
    ((∀ k, k < n → a % 4096 ≠ s.indexed k % 4096) → (s.storeBlock n).memRead a = s.memRead a) := by
  induction n with
  | zero => exact ⟨fun k hk => absurd hk (Nat.not_lt_zero k), fun _ => rfl⟩
  | succ n ih =>
    obtain ⟨ih1, ih2⟩ := ih (by omega)
    constructor
    · intro k hk
      rw [State.storeBlock, State.memWrite_memRead]
      rcases Nat.lt_succ_iff_lt_or_eq.mp hk with h | h
      · rw [if_neg (by simp only [State.indexed]; omega)]
        exact ih1 k h
      · simp [h]
    · intro h
      rw [State.storeBlock, State.memWrite_memRead, if_neg (h n (Nat.lt_succ_self n))]
      exact ih2 (fun k hk => h k (by omega))

/-- FX65 (R179): what each register holds afterwards. -/
theorem State.loadBlock_getV (s : State) (n : Nat) (q : RegNo) (hn : n ≤ 16) :
    (s.loadBlock n).getV q = if q.toNat < n then s.memRead (s.indexed q.toNat) else s.getV q := by
  induction n with
  | zero => simp [State.loadBlock]
  | succ n ih =>
    rw [State.loadBlock, State.setV_getV, ih (by omega)]
    have hq : q = BitVec.ofNat 4 n ↔ q.toNat = n := by
      constructor
      · rintro rfl; simp; omega
      · rintro rfl; simp
    by_cases h : q.toNat = n
    · rw [if_pos (hq.2 h), if_pos (by omega), h]
    · rw [if_neg (fun e => h (hq.1 e))]
      by_cases h2 : q.toNat < n
      · rw [if_pos h2, if_pos (by omega)]
      · rw [if_neg h2, if_neg (by omega)]

end Sys2Proof.Machine
end

