-- ==== Sys2Proof/Laws/Screen.lean ====
section
/-!
SUPPORT. The laws of the framebuffer and of the draw engine (10_state.md R36, R47, 43_draw.md R151): a cell after a
write, what inverting a list of cells does, and that a draw is the inversion of its sprite's cells in loop order.
-/

namespace Sys2Proof.Machine

/-- A cell holds what was last written to it; every other cell is left alone. -/
theorem fbGet_fbPut (fb : Framebuffer) (x x' : BitVec 6) (y y' : BitVec 5) (b : Bool) :
    fbGet (fbPut fb x y b) x' y' = if x' = x ∧ y' = y then b else fbGet fb x' y' := by
  have hx : x'.toNat < 64 := x'.isLt
  simp only [fbGet, fbPut, Vector.getElem_set]
  by_cases hy : y' = y
  · subst hy
    rw [if_pos rfl]
    by_cases hxx : x' = x
    · subst hxx
      cases b <;> simp [hx]
    · have hn : ¬ x'.toNat = x.toNat := fun e => hxx (BitVec.eq_of_toNat_eq e)
      cases b <;> simp [hxx] <;> intros <;> first | assumption | omega
  · have hn : ¬ y.toNat = y'.toNat := fun e => hy (BitVec.eq_of_toNat_eq e.symm)
    simp [hn, hy]

@[simp] theorem fbGet_fbClear (x : BitVec 6) (y : BitVec 5) : fbGet fbClear x y = false := by
  simp [fbGet, fbClear]

/-- Framebuffers with the same cells are equal. -/
theorem fb_ext {f g : Framebuffer} (h : ∀ x y, fbGet f x y = fbGet g x y) : f = g := by
  apply Vector.ext
  intro i hi
  apply BitVec.eq_of_getLsbD_eq
  intro j hj
  have := h (BitVec.ofNat 6 j) (BitVec.ofNat 5 i)
  have h1 : j % 64 = j := Nat.mod_eq_of_lt hj
  have h2 : i % 32 = i := Nat.mod_eq_of_lt hi
  simpa [fbGet, h1, h2] using this

/-! ### One cell -/

/-- Inverting a cell (R151) changes registers, framebuffer and events, and nothing else. -/
theorem State.togglePixel_eq (s : State) (p : BitVec 6 × BitVec 5) :
    s.togglePixel p =
      { s with v := (s.togglePixel p).v, fb := (s.togglePixel p).fb, events := (s.togglePixel p).events } := by
  unfold State.togglePixel
  split <;> rfl

/-- The cell is inverted and no other cell changes. -/
theorem State.togglePixel_fb (s : State) (p : BitVec 6 × BitVec 5) (x : BitVec 6) (y : BitVec 5) :
    fbGet (s.togglePixel p).fb x y = (fbGet s.fb x y ^^ decide ((x, y) = p)) := by
  obtain ⟨px, py⟩ := p
  unfold State.togglePixel
  split
  · next h =>
    simp only [State.clearPixel, State.emit_fb, State.setFb_fb, fbGet_fbPut]
    by_cases hp : x = px ∧ y = py
    · obtain ⟨rfl, rfl⟩ := hp
      simp [h]
    · simp [hp]
  · next h =>
    simp only [State.lightPixel, State.emit_fb, State.setFb_fb, fbGet_fbPut]
    by_cases hp : x = px ∧ y = py
    · obtain ⟨rfl, rfl⟩ := hp
      simp at h
      simp [h]
    · simp [hp]

/-- VF becomes 0x01 on a collision; no other register changes. -/
theorem State.togglePixel_getV (s : State) (p : BitVec 6 × BitVec 5) (q : RegNo) :
    (s.togglePixel p).getV q = if q = vf ∧ fbGet s.fb p.1 p.2 = true then 0x01 else s.getV q := by
  unfold State.togglePixel
  split
  · next h => simp [State.clearPixel, h]
  · next h => simp [State.lightPixel, h]

/-- The event says which way the cell went (R151, R152). -/
theorem State.togglePixel_events (s : State) (p : BitVec 6 × BitVec 5) :
    (s.togglePixel p).events =
      s.events ++ [if fbGet s.fb p.1 p.2 then .pixelClear p.1 p.2 else .pixelSet p.1 p.2] := by
  unfold State.togglePixel
  split
  · next h => simp [State.clearPixel]
  · next h => simp [State.lightPixel]

/-! ### A list of cells -/

theorem foldl_togglePixel_eq (l : List (BitVec 6 × BitVec 5)) (s : State) :
    l.foldl State.togglePixel s =
      { s with
        v := (l.foldl State.togglePixel s).v
        fb := (l.foldl State.togglePixel s).fb
        events := (l.foldl State.togglePixel s).events } := by
  induction l generalizing s with
  | nil => rfl
  | cons p l ih => rw [List.foldl_cons, ih, State.togglePixel_eq]

/-- Each listed cell is inverted once for each time it is listed. -/
theorem foldl_togglePixel_fb (l : List (BitVec 6 × BitVec 5)) (s : State) (x : BitVec 6) (y : BitVec 5) :
    fbGet (l.foldl State.togglePixel s).fb x y =
      (fbGet s.fb x y ^^ decide (l.count (x, y) % 2 = 1)) := by
  induction l generalizing s with
  | nil => simp
  | cons p l ih =>
    rw [List.foldl_cons, ih, State.togglePixel_fb, List.count_cons]
    by_cases h : (x, y) = p
    · subst h
      by_cases hc : l.count (x, y) % 2 = 1
      · have : ¬ (l.count (x, y) + 1) % 2 = 1 := by omega
        simp [hc, this]
      · have : (l.count (x, y) + 1) % 2 = 1 := by omega
        simp [hc, this]
    · have : (p == (x, y)) = false := by simpa using Ne.symm h
      simp [h, this]

/-- A list of different cells: exactly the listed ones are inverted. -/
theorem foldl_togglePixel_fb_nodup (l : List (BitVec 6 × BitVec 5)) (s : State) (hl : l.Nodup) (x : BitVec 6)
    (y : BitVec 5) :
    fbGet (l.foldl State.togglePixel s).fb x y = (fbGet s.fb x y ^^ decide ((x, y) ∈ l)) := by
  rw [foldl_togglePixel_fb, hl.count]
  by_cases h : (x, y) ∈ l <;> simp [h]

/-- A list of different cells: VF records whether one of them was lit, no other register changes. -/
theorem foldl_togglePixel_getV (l : List (BitVec 6 × BitVec 5)) (s : State) (hl : l.Nodup) (q : RegNo) :
    (l.foldl State.togglePixel s).getV q =
      if q = vf ∧ ∃ p ∈ l, fbGet s.fb p.1 p.2 = true then 0x01 else s.getV q := by
  induction l generalizing s with
  | nil => simp
  | cons p l ih =>
    obtain ⟨hp, hl⟩ := List.nodup_cons.mp hl
    rw [List.foldl_cons, ih _ hl, State.togglePixel_getV]
    have hsame : (∃ c ∈ l, fbGet (s.togglePixel p).fb c.1 c.2 = true) ↔ ∃ c ∈ l, fbGet s.fb c.1 c.2 = true := by
      refine exists_congr fun c => and_congr_right fun hc => ?_
      rw [State.togglePixel_fb]
      have : ¬ (c.1, c.2) = p := by rintro rfl; exact hp hc
      simp [this]
    by_cases hq : q = vf
    · by_cases h1 : fbGet s.fb p.1 p.2 = true
      · simp [hq, h1]
      · simp only [hq, hsame, h1, true_and, List.mem_cons, exists_eq_or_imp]
        simp
    · simp [hq]

/-! ### The sprite -/

/-- The cells of a whole sprite, in loop order (R151, R152). -/
def drawCells (s : State) (x0 y0 : Byte) (n : Nat) : List (BitVec 6 × BitVec 5) :=
  (List.range n).flatMap (fun row => spriteCells x0 y0 row (s.memRead (s.indexed row)))

/-- A draw inverts the sprite's cells, in loop order. -/
theorem State.drawRows_eq (s : State) (x0 y0 : Byte) (n : Nat) :
    s.drawRows x0 y0 n = (drawCells s x0 y0 n).foldl State.togglePixel s := by
  induction n with
  | zero => rfl
  | succ n ih =>
    have hm : (s.drawRows x0 y0 n).memRead ((s.drawRows x0 y0 n).indexed n) = s.memRead (s.indexed n) := by
      rw [ih, foldl_togglePixel_eq]; rfl
    rw [State.drawRows, State.drawRow, hm, ih, drawCells, drawCells, List.range_succ, List.flatMap_append,
      List.foldl_append]
    simp

theorem mem_spriteCells (x0 y0 : Byte) (row : Nat) (b : Byte) (x : BitVec 6) (y : BitVec 5) :
    (x, y) ∈ spriteCells x0 y0 row b ↔
      ∃ bit, bit < 8 ∧ b.getLsbD (7 - bit) = true ∧ x.toNat = (x0.toNat + bit) % 64 ∧
        y.toNat = (y0.toNat + row) % 32 := by
  simp only [spriteCells, List.mem_map, List.mem_filter, List.mem_range, Prod.mk.injEq, and_assoc]
  refine exists_congr fun bit => and_congr_right fun _ => and_congr_right fun _ => and_congr ?_ ?_
  · exact ⟨fun h => by rw [← h]; simp, fun h => BitVec.eq_of_toNat_eq (by simp [h])⟩
  · exact ⟨fun h => by rw [← h]; simp, fun h => BitVec.eq_of_toNat_eq (by simp [h])⟩

/-- Which cells lie under a 1 bit of the sprite (R151). -/
theorem mem_drawCells (s : State) (x0 y0 : Byte) (n : Nat) (x : BitVec 6) (y : BitVec 5) :
    (x, y) ∈ drawCells s x0 y0 n ↔
      ∃ row, row < n ∧ ∃ bit, bit < 8 ∧ (s.memRead (s.indexed row)).getLsbD (7 - bit) = true ∧
        x.toNat = (x0.toNat + bit) % 64 ∧ y.toNat = (y0.toNat + row) % 32 := by
  simp [drawCells, mem_spriteCells]

theorem nodup_spriteCells (x0 y0 : Byte) (row : Nat) (b : Byte) : (spriteCells x0 y0 row b).Nodup := by
  refine (List.nodup_range.filter _).map_on ?_
  intro i hi j hj h
  have hi := List.mem_range.mp (List.mem_of_mem_filter hi)
  have hj := List.mem_range.mp (List.mem_of_mem_filter hj)
  have := congrArg BitVec.toNat (Prod.mk.inj h).1
  simp only [BitVec.toNat_ofNat] at this
  omega

/-- No cell is touched twice by one draw (R151). -/
theorem nodup_drawCells (s : State) (x0 y0 : Byte) (n : Nat) (hn : n ≤ 32) : (drawCells s x0 y0 n).Nodup := by
  refine List.nodup_flatMap.mpr ⟨fun row _ => nodup_spriteCells _ _ _ _, ?_⟩
  refine List.nodup_range.imp_of_mem ?_
  rintro i j hi hj hij ⟨x, y⟩ h1 h2
  obtain ⟨_, _, _, _, e1⟩ := (mem_spriteCells ..).mp h1
  obtain ⟨_, _, _, _, e2⟩ := (mem_spriteCells ..).mp h2
  have hi := List.mem_range.mp hi
  have hj := List.mem_range.mp hj
  omega

end Sys2Proof.Machine
end

