-- ==== Sys2Proof/Laws/Ops.lean ====
section
/-!
SUPPORT. The shared operations, one lemma each that says everything it can do: the call stack, the timers, the draw
engine, the flags, the numbers of the operand forms.
-/

namespace Sys2Proof.Machine

/-! ### The call stack -/

/-- `Push(v)` (R32): where it answers, the address lies on top and everything else is as it was. -/
theorem State.push_eq_some {s t : State} {a : Word} (h : s.push a = some t) :
    ∃ hs : s.sp.toNat < 16, t = { s with stack := s.stack.set s.sp.toNat a hs, sp := s.sp + 1 } := by
  unfold State.push at h
  split at h
  · next hs => exact ⟨hs, (Option.some.inj h).symm⟩
  · cases h

theorem State.push_eq_none {s : State} {a : Word} : s.push a = none ↔ 16 ≤ s.sp.toNat := by
  unfold State.push
  split <;> simp <;> omega

/-- `Pop()` (R33): where it answers, the result is the entry below SP and only SP has changed. -/
theorem State.pop_eq_some {s t : State} {a : Word} (h : s.pop = some (a, t)) :
    1 ≤ s.sp.toNat ∧ s.sp.toNat ≤ 16 ∧ s.stack[s.sp.toNat - 1]? = some a ∧ t = { s with sp := s.sp - 1 } := by
  unfold State.pop at h
  split at h
  · next hs =>
    obtain ⟨rfl, rfl⟩ := Prod.mk.inj (Option.some.inj h)
    exact ⟨hs.1, hs.2, by simp, rfl⟩
  · cases h

theorem State.pop_eq_none {s : State} : s.pop = none ↔ s.sp.toNat = 0 ∨ 16 < s.sp.toNat := by
  unfold State.pop
  split <;> simp <;> omega

theorem sp_succ_toNat {sp : BitVec 5} (h : sp.toNat < 16) : (sp + 1).toNat = sp.toNat + 1 := by
  bv_omega

theorem sp_pred_toNat {sp : BitVec 5} (h : 1 ≤ sp.toNat) : (sp - 1).toNat = sp.toNat - 1 := by
  bv_omega

/-! ### The timers -/

/-- `T.update(t)` (R192) where the count is not 0 and the interval has gone by. -/
theorem timerUpdate_fires {t60 t : Nat} {m : Timer} (hv : m.val ≠ 0) (ht : m.base + t60 ≤ t) :
    timerUpdate t60 t m = { val := m.val - 1, base := t } := if_pos ⟨hv, ht⟩

/-- `T.update(t)` (R192) where the count is 0 or the interval has not gone by. -/
theorem timerUpdate_idle {t60 t : Nat} {m : Timer} (h : m.val = 0 ∨ t < m.base + t60) : timerUpdate t60 t m = m :=
  if_neg fun ⟨hv, ht⟩ => h.elim hv (Nat.not_lt.mpr ht)

theorem val_pred_toNat {v : Byte} (h : v ≠ 0) : (v - 1).toNat = v.toNat - 1 := by
  bv_omega

/-- An update never moves the baseline past the time it is given. -/
theorem timerUpdate_base_le {t60 t : Nat} {m : Timer} (h : m.base ≤ t) : (timerUpdate t60 t m).base ≤ t := by
  unfold timerUpdate
  split
  · exact Nat.le_refl t
  · exact h

/-! ### The draw engine -/

/-- A draw (R151) writes registers, framebuffer and events, and nothing else. -/
theorem State.drawRows_frame (s : State) (x0 y0 : Byte) (n : Nat) :
    s.drawRows x0 y0 n =
      { s with
        v := (s.drawRows x0 y0 n).v
        fb := (s.drawRows x0 y0 n).fb
        events := (s.drawRows x0 y0 n).events } := by
  rw [State.drawRows_eq, foldl_togglePixel_eq]

/-- The events of a draw (R152). -/
theorem foldl_togglePixel_events (l : List (BitVec 6 × BitVec 5)) (s : State) (hl : l.Nodup) :
    (l.foldl State.togglePixel s).events =
      s.events ++ l.map (fun p => if fbGet s.fb p.1 p.2 then .pixelClear p.1 p.2 else .pixelSet p.1 p.2) := by
  induction l generalizing s with
  | nil => simp
  | cons p l ih =>
    obtain ⟨hp, hl⟩ := List.nodup_cons.mp hl
    rw [List.foldl_cons, ih _ hl, State.togglePixel_events, List.map_cons, List.append_assoc]
    congr 1
    rw [List.singleton_append]
    congr 1
    refine List.map_congr_left fun c hc => ?_
    have : ¬ (c.1, c.2) = p := by rintro rfl; exact hp hc
    rw [State.togglePixel_fb]
    simp [this]

/-! ### Flags and operands as numbers -/

theorem sumByte_toNat (a b : Byte) : (sumByte a b).toNat = (a.toNat + b.toNat) % 256 := by
  simp only [sumByte, wideSum, BitVec.extractLsb'_toNat, BitVec.toNat_add, BitVec.toNat_setWidth, Nat.shiftRight_zero]
  omega

theorem carryFlag_eq (a b : Byte) : carryFlag a b = flagByte (decide (256 ≤ a.toNat + b.toNat)) := by
  have h : (wideSum a b).getLsbD 8 = decide (256 ≤ a.toNat + b.toNat) := by
    have ha := a.isLt; have hb := b.isLt
    rw [BitVec.getLsbD, wideSum, Nat.testBit_eq_decide_div_mod_eq]
    simp only [BitVec.toNat_add, BitVec.toNat_setWidth, decide_eq_decide]
    omega
  rw [carryFlag, h]

@[simp] theorem zext16_toNat (a : BitVec 12) : (zext16 a).toNat = a.toNat := by
  have := a.isLt
  simp only [zext16, BitVec.toNat_setWidth]; omega

@[simp] theorem lowNibble_toNat (b : Byte) : (lowNibble b).toNat = b.toNat % 16 := by
  simp [lowNibble, BitVec.extractLsb'_toNat]

theorem bcdDigit_toNat (b : Byte) (p : Nat) : (bcdDigit b p).toNat = b.toNat / p % 10 := by
  simp only [bcdDigit, BitVec.toNat_ofNat]
  omega

/-- The fetched word as a number (R64). -/
theorem State.fetch_toNat (s : State) :
    s.fetch.toNat = (s.memRead s.pc.toNat).toNat * 256 + (s.memRead (s.pc.toNat + 1)).toNat :=
  wordOfBytes_toNat _ _

/-- Only the address modulo 4096 matters (R61). -/
theorem State.memRead_mod (s : State) (n : Nat) : s.memRead (n % 4096) = s.memRead n := by
  simp [State.memRead, effectiveAddress, memSize]

end Sys2Proof.Machine
end

