-- ==== Sys2Proof/Laws/PerInstr.lean ====
section
/-!
SUPPORT. The family TableRow: the fixed bits of the encoder's words are those of the instruction's row in
spec/opcode_table.json.
-/

namespace Sys2Proof.Laws.TableRow

/-- The "fixed" entries of a row of spec/opcode_table.json: lowest bit, number of bits, value. -/
def fixedBits : Instr → List (Nat × Nat × Nat)
  | .sys _ => [(12, 4, 0x0)]
  | .cls => [(0, 16, 0xE0)]
  | .ret => [(0, 16, 0xEE)]
  | .jp _ => [(12, 4, 0x1)]
  | .call _ => [(12, 4, 0x2)]
  | .seImm _ _ => [(12, 4, 0x3)]
  | .sneImm _ _ => [(12, 4, 0x4)]
  | .seReg _ _ _ => [(12, 4, 0x5)]
  | .ldImm _ _ => [(12, 4, 0x6)]
  | .addImm _ _ => [(12, 4, 0x7)]
  | .ldReg _ _ => [(0, 4, 0x0), (12, 4, 0x8)]
  | .orReg _ _ => [(0, 4, 0x1), (12, 4, 0x8)]
  | .andReg _ _ => [(0, 4, 0x2), (12, 4, 0x8)]
  | .xorReg _ _ => [(0, 4, 0x3), (12, 4, 0x8)]
  | .addReg _ _ => [(0, 4, 0x4), (12, 4, 0x8)]
  | .subReg _ _ => [(0, 4, 0x5), (12, 4, 0x8)]
  | .shr _ _ => [(0, 4, 0x6), (12, 4, 0x8)]
  | .subnReg _ _ => [(0, 4, 0x7), (12, 4, 0x8)]
  | .shl _ _ => [(0, 4, 0xE), (12, 4, 0x8)]
  | .sneReg _ _ _ => [(12, 4, 0x9)]
  | .ldI _ => [(12, 4, 0xA)]
  | .jpV0 _ => [(12, 4, 0xB)]
  | .rnd _ _ => [(12, 4, 0xC)]
  | .drw _ _ _ => [(12, 4, 0xD)]
  | .skp _ => [(0, 8, 0x9E), (12, 4, 0xE)]
  | .sknp _ => [(0, 8, 0xA1), (12, 4, 0xE)]
  | .ldVxDT _ => [(0, 8, 0x7), (12, 4, 0xF)]
  | .ldVxK _ => [(0, 8, 0xA), (12, 4, 0xF)]
  | .ldDTVx _ => [(0, 8, 0x15), (12, 4, 0xF)]
  | .ldSTVx _ => [(0, 8, 0x18), (12, 4, 0xF)]
  | .addI _ => [(0, 8, 0x1E), (12, 4, 0xF)]
  | .ldF _ => [(0, 8, 0x29), (12, 4, 0xF)]
  | .ldB _ => [(0, 8, 0x33), (12, 4, 0xF)]
  | .storeRegs _ => [(0, 8, 0x55), (12, 4, 0xF)]
  | .loadRegs _ => [(0, 8, 0x65), (12, 4, 0xF)]

/-- Every fixed field of the row holds its value in the encoder's word. -/
def Statement (i : Instr) : Prop :=
  ∀ f ∈ fixedBits i, (encode i).toNat / 2 ^ f.1 % 2 ^ f.2.1 = f.2.2

/-- A row with one fixed field. -/
theorem one {w : Word} {lo n v : Nat} (h : w.toNat / 2 ^ lo % 2 ^ n = v) :
    ∀ f ∈ [(lo, n, v)], w.toNat / 2 ^ f.1 % 2 ^ f.2.1 = f.2.2 := by
  simpa using h

/-- A row with two fixed fields. -/
theorem two {w : Word} {lo n v lo' n' v' : Nat} (h : w.toNat / 2 ^ lo % 2 ^ n = v)
    (h' : w.toNat / 2 ^ lo' % 2 ^ n' = v') :
    ∀ f ∈ [(lo, n, v), (lo', n', v')], w.toNat / 2 ^ f.1 % 2 ^ f.2.1 = f.2.2 := by
  simpa using ⟨h, h'⟩

section formats
variable (f x y n : BitVec 4) (b : Byte) (a : BitVec 12)

theorem familyNNN : (wordNNN f a).toNat / 2 ^ 12 % 2 ^ 4 = f.toNat := by
  rw [wordNNN_toNat]; omega

theorem familyXNN : (wordXNN f x b).toNat / 2 ^ 12 % 2 ^ 4 = f.toNat := by
  rw [wordXNN_toNat]; omega

theorem familyXYN : (wordXYN f x y n).toNat / 2 ^ 12 % 2 ^ 4 = f.toNat := by
  rw [wordXYN_toNat]; omega

theorem lowXNN : (wordXNN f x b).toNat / 2 ^ 0 % 2 ^ 8 = b.toNat := by
  rw [wordXNN_toNat]; omega

theorem lowXYN : (wordXYN f x y n).toNat / 2 ^ 0 % 2 ^ 4 = n.toNat := by
  rw [wordXYN_toNat]; omega

end formats

theorem sys (nnn : BitVec 12) : Statement (.sys nnn) := one (familyNNN ..)
theorem cls : Statement .cls := one rfl
theorem ret : Statement .ret := one rfl
theorem jp (nnn : BitVec 12) : Statement (.jp nnn) := one (familyNNN ..)
theorem call (nnn : BitVec 12) : Statement (.call nnn) := one (familyNNN ..)
theorem seImm (x : RegNo) (nn : Byte) : Statement (.seImm x nn) := one (familyXNN ..)
theorem sneImm (x : RegNo) (nn : Byte) : Statement (.sneImm x nn) := one (familyXNN ..)
theorem seReg (x y : RegNo) (n : BitVec 4) : Statement (.seReg x y n) := one (familyXYN ..)
theorem ldImm (x : RegNo) (nn : Byte) : Statement (.ldImm x nn) := one (familyXNN ..)
theorem addImm (x : RegNo) (nn : Byte) : Statement (.addImm x nn) := one (familyXNN ..)
theorem ldReg (x y : RegNo) : Statement (.ldReg x y) := two (lowXYN ..) (familyXYN ..)
theorem orReg (x y : RegNo) : Statement (.orReg x y) := two (lowXYN ..) (familyXYN ..)
theorem andReg (x y : RegNo) : Statement (.andReg x y) := two (lowXYN ..) (familyXYN ..)
theorem xorReg (x y : RegNo) : Statement (.xorReg x y) := two (lowXYN ..) (familyXYN ..)
theorem addReg (x y : RegNo) : Statement (.addReg x y) := two (lowXYN ..) (familyXYN ..)
theorem subReg (x y : RegNo) : Statement (.subReg x y) := two (lowXYN ..) (familyXYN ..)
theorem shr (x y : RegNo) : Statement (.shr x y) := two (lowXYN ..) (familyXYN ..)
theorem subnReg (x y : RegNo) : Statement (.subnReg x y) := two (lowXYN ..) (familyXYN ..)
theorem shl (x y : RegNo) : Statement (.shl x y) := two (lowXYN ..) (familyXYN ..)
theorem sneReg (x y : RegNo) (n : BitVec 4) : Statement (.sneReg x y n) := one (familyXYN ..)
theorem ldI (nnn : BitVec 12) : Statement (.ldI nnn) := one (familyNNN ..)
theorem jpV0 (nnn : BitVec 12) : Statement (.jpV0 nnn) := one (familyNNN ..)
theorem rnd (x : RegNo) (nn : Byte) : Statement (.rnd x nn) := one (familyXNN ..)
theorem drw (x y : RegNo) (n : BitVec 4) : Statement (.drw x y n) := one (familyXYN ..)
theorem skp (x : RegNo) : Statement (.skp x) := two (lowXNN ..) (familyXNN ..)
theorem sknp (x : RegNo) : Statement (.sknp x) := two (lowXNN ..) (familyXNN ..)
theorem ldVxDT (x : RegNo) : Statement (.ldVxDT x) := two (lowXNN ..) (familyXNN ..)
theorem ldVxK (x : RegNo) : Statement (.ldVxK x) := two (lowXNN ..) (familyXNN ..)
theorem ldDTVx (x : RegNo) : Statement (.ldDTVx x) := two (lowXNN ..) (familyXNN ..)
theorem ldSTVx (x : RegNo) : Statement (.ldSTVx x) := two (lowXNN ..) (familyXNN ..)
theorem addI (x : RegNo) : Statement (.addI x) := two (lowXNN ..) (familyXNN ..)
theorem ldF (x : RegNo) : Statement (.ldF x) := two (lowXNN ..) (familyXNN ..)
theorem ldB (x : RegNo) : Statement (.ldB x) := two (lowXNN ..) (familyXNN ..)
theorem storeRegs (x : RegNo) : Statement (.storeRegs x) := two (lowXNN ..) (familyXNN ..)
theorem loadRegs (x : RegNo) : Statement (.loadRegs x) := two (lowXNN ..) (familyXNN ..)

end Sys2Proof.Laws.TableRow
end

