-- ==== Sys2Proof/Laws/Step.lean ====
section
/-!
SUPPORT. What a step can do, said once: what it is in each situation (step_of_...), and all of them together
(step_cases), from which every invariant of the step is derived.
-/

namespace Sys2Proof.Machine

@[simp] theorem State.sampled_eq (s : State) : s.sampled = s.countSample.takeSample s.sample := rfl

/-- `reset` falling (R270, R275): the reset values, or the halt with cause 5 raised on them. -/
theorem State.release_cases (s : State) (e : Env) :
    (loadFails e = true ∧ s.release e = (s.resetValues e).raise .loadFailure 0x0000 0x0200) ∨
    (loadFails e = false ∧ s.release e = s.resetValues e) := by
  unfold State.release
  cases loadFails e
  · exact .inr ⟨rfl, rfl⟩
  · exact .inl ⟨rfl, rfl⟩

/-- In reset a step is the held core (R270). -/
theorem step_of_reset {s : State} (h : s.sample.reset = true) : step s = .next (s.countSample.hold s.sample) := by
  simp [step, State.react, h]

/-- A step in which `reset` falls (R270). -/
theorem step_of_fall {s : State} (hh : s.held = true) (h : s.sample.reset = false) :
    step s = .next (s.countSample.release s.sample) := by
  simp [step, State.react, h, hh]

/-- With `reset` released a step is an iteration (R210). -/
theorem step_of_released {s : State} (h : Released s) : step s = s.countSample.iterate s.sample := by
  simp [step, State.react, h.1, h.2]

/-- A running step on a word that decodes (R215). -/
theorem step_of_running {s : State} {i : Instr} (h : Running s) (hd : decodeWord s.fetch = .ok i) :
    step s = finishIteration (exec i s.sampled.advance) := by
  obtain ⟨hr, hm, hc⟩ := h
  rw [step_of_released hr, State.iterate, State.countSample_mode, hm]
  simp only [hc, State.runMode, State.takeSample_mode, State.countSample_mode, hm]
  change (match decodeWord s.fetch with
    | .ok i => finishIteration (exec i s.sampled.advance)
    | .error _ => .next (s.sampled.advance.raiseInstr .illegalInstruction s.fetch)) = _
  rw [hd]

/-- A running step on a word that does not decode (R241). -/
theorem step_of_illegal {s : State} {r : Reject} (h : Running s) (hd : decodeWord s.fetch = .error r) :
    step s = .next (s.sampled.advance.raiseInstr .illegalInstruction s.fetch) := by
  obtain ⟨hr, hm, hc⟩ := h
  rw [step_of_released hr, State.iterate, State.countSample_mode, hm]
  simp only [hc, State.runMode, State.takeSample_mode, State.countSample_mode, hm]
  change (match decodeWord s.fetch with
    | .ok i => finishIteration (exec i s.sampled.advance)
    | .error _ => .next (s.sampled.advance.raiseInstr .illegalInstruction s.fetch)) = _
  rw [hd]

/-- An iteration of a key wait (R218). -/
theorem step_of_waiting {s : State} (h : Waiting s) :
    step s = .next (s.sampled.receiveKey s.sample.kd).updateTimers := by
  obtain ⟨hr, hm, hc⟩ := h
  rw [step_of_released hr, State.iterate, State.countSample_mode, hm]
  simp only [hc, State.runMode, State.takeSample_mode, State.countSample_mode, hm]
  rfl

/-- An iteration with the display closed (R214). -/
theorem step_of_closed {s : State} (hr : Released s) (hm : s.mode ≠ .halt) (hc : s.sample.closed = true) :
    step s = .next (s.sampled.raiseBare .displayClosed) := by
  rw [step_of_released hr, State.iterate, State.countSample_mode]
  cases h : s.mode
  · simp [hc]
  · simp [hc]
  · exact absurd h hm

/-- An iteration in HALT (R222). -/
theorem step_of_halt {s : State} (hr : Released s) (hm : s.mode = .halt) : step s = .next s.countSample := by
  rw [step_of_released hr, State.iterate, State.countSample_mode, hm]

/-- Every way a step answers a next state (48_pacing_loop.md R211, R219, 70_reset_and_hazards.md R270). -/
theorem step_cases {s t : State} (h : step s = .next t) :
    (s.sample.reset = true ∧ t = s.countSample.hold s.sample) ∨
    (s.held = true ∧ s.sample.reset = false ∧ t = s.countSample.release s.sample) ∨
    (Released s ∧ s.mode = .halt ∧ t = s.countSample) ∨
    (Released s ∧ s.mode ≠ .halt ∧ s.sample.closed = true ∧ t = s.sampled.raiseBare .displayClosed) ∨
    (Running s ∧ (∃ r, decodeWord s.fetch = .error r) ∧
      t = s.sampled.advance.raiseInstr .illegalInstruction s.fetch) ∨
    (Running s ∧ ∃ i u, decodeWord s.fetch = .ok i ∧ exec i s.sampled.advance = .next u ∧ t = u.afterInstr) ∨
    (Waiting s ∧ t = (s.sampled.receiveKey s.sample.kd).updateTimers) := by
  cases hx : s.sample.reset with
  | true => exact .inl ⟨rfl, (Host.Outcome.next.inj ((step_of_reset hx).symm.trans h)).symm⟩
  | false =>
  refine .inr ?_
  cases hh : s.held with
  | true => exact .inl ⟨rfl, rfl, (Host.Outcome.next.inj ((step_of_fall hh hx).symm.trans h)).symm⟩
  | false =>
  refine .inr ?_
  have hr : Released s := ⟨hh, hx⟩
  by_cases hm : s.mode = .halt
  · exact .inl ⟨hr, hm, (Host.Outcome.next.inj ((step_of_halt hr hm).symm.trans h)).symm⟩
  refine .inr ?_
  cases hc : s.sample.closed with
  | true => exact .inl ⟨hr, hm, rfl, (Host.Outcome.next.inj ((step_of_closed hr hm hc).symm.trans h)).symm⟩
  | false =>
  refine .inr ?_
  cases hk : s.mode with
  | halt => exact absurd hk hm
  | waitKey =>
    have hw : Waiting s := ⟨hr, hk, hc⟩
    exact .inr (.inr ⟨hw, (Host.Outcome.next.inj ((step_of_waiting hw).symm.trans h)).symm⟩)
  | run =>
    have hw : Running s := ⟨hr, hk, hc⟩
    cases hd : decodeWord s.fetch with
    | error r => exact .inl ⟨hw, ⟨r, rfl⟩, (Host.Outcome.next.inj ((step_of_illegal hw hd).symm.trans h)).symm⟩
    | ok i =>
      rw [step_of_running hw hd] at h
      cases he : exec i s.sampled.advance with
      | next u =>
        rw [he] at h
        exact .inr (.inl ⟨hw, i, u, rfl, he, (Host.Outcome.next.inj h).symm⟩)
      | fault r => rw [he] at h; cases h
      | refused r => rw [he] at h; cases h

/-- Step (f) or its absence (R211): a next state of a halting instruction is kept as it is. -/
theorem State.afterInstr_cases (s : State) :
    (s.mode = .halt ∧ s.afterInstr = s) ∨ (s.mode ≠ .halt ∧ s.afterInstr = s.updateTimers) := by
  unfold State.afterInstr
  split
  · next h => exact .inl ⟨h, rfl⟩
  · next h => exact .inr ⟨by simp [h], rfl⟩
  · next h => exact .inr ⟨by simp [h], rfl⟩

/-- The instruction a running step executes. -/
theorem State.current_of_running {s : State} {i : Instr} (hr : Running s) (hd : decodeWord s.fetch = .ok i) :
    s.current = some i := by
  simp [State.current, hr.2.1, hd]

end Sys2Proof.Machine
end

