-- ==== Sys2Proof/Tests/Slice0.lean ====
section
/-!
SUPPORT. The model's own tests, each about one word or one step, with the expected values of spec/95_test_vectors.md
(the vector's name stands in the docstring), and after them a witness for the hypotheses of every statement that has
some.
-/

namespace Sys2Proof.Tests

open Sys2Proof Sys2Proof.Machine

/-- What `f` reads from the state one step leaves, if it leaves one. -/
def look {α : Type} (s : State) (f : State → α) : Option α :=
  match step s with
  | .next t => some (f t)
  | .fault _ | .refused _ => none

/-- The "Before" state of a vector: State.reset changed by `f`, then the word `w` placed at PC. -/
def before (w : Nat) (f : State → State := id) : State := (f State.reset).withFetchWord 16 w

/-- The state with `e` as the next environment sample. -/
def withEnv (e : Env) (s : State) : State := { s with inputs := [e] }

/-- The state with the cell of column `x`, row `y` lit. -/
def lit (x : BitVec 6) (y : BitVec 5) (s : State) : State := s.setFb (fbPut s.fb x y true)

/-- The state with `n` copies of `a` on the call stack. -/
def stacked (n : BitVec 5) (a : Word) (s : State) : State := { s with stack := Vector.replicate 16 a, sp := n }

/-- The state with V0 to VF holding `b`, `b + 1`, .... -/
def counting (b : Byte) (s : State) : State := { s with v := Vector.ofFn fun k => b + BitVec.ofNat 8 k.val }

/-- The state with bytes stored from address `a` on. -/
def stored (a : Nat) (bs : List Byte) (s : State) : State := { s with mem := memoryLoad s.cfg s.mem a bs }

/-- A key-down event of key `k`, with nothing else happening. -/
def keyDown (k : KeyIndex) : Env := { Env.quiet with kd := some k }

/-- The sample of a closed display. -/
def closedEnv : Env := { Env.quiet with closed := true }

/-! ### Well-formedness and decoding -/

/-- R85: rows 2 and 3 win over row 1, so these two terms are no instruction. -/
theorem test_wf_refuses_sys_0E0_0EE : (Instr.sys 0x0E0).wf = false ∧ (Instr.sys 0x0EE).wf = false := by decide

theorem test_wf_accepts_sys_neighbours : (Instr.sys 0x0E1).wf = true ∧ (Instr.sys 0x000).wf = true := by decide

/-- Family 0, from the patterns 0NNN, 00E0, 00EE. -/
theorem test_decode_family0 :
    decodeTableWord 16 0b0000000100100011 = some (.sys 0x123) ∧ decodeTableWord 16 0b0000000011100000 = some .cls ∧
    decodeTableWord 16 0b0000000011101110 = some .ret := by decide

/-- Families 1 to 4, from 1NNN, 2NNN, 3XNN, 4XNN. -/
theorem test_decode_families1to4 :
    decodeTableWord 16 0b0001101010111100 = some (.jp 0xABC) ∧
    decodeTableWord 16 0b0010001000010000 = some (.call 0x210) ∧
    decodeTableWord 16 0b0011001100010000 = some (.seImm 3 0x10) ∧
    decodeTableWord 16 0b0100001100010000 = some (.sneImm 3 0x10) := by decide

/-- Families 5, 6, 7 and 9, from 5XYN, 6XNN, 7XNN, 9XYN. -/
theorem test_decode_families5to7and9 :
    decodeTableWord 16 0b0101000100100111 = some (.seReg 1 2 7) ∧
    decodeTableWord 16 0b0110101000111110 = some (.ldImm 0xA 0x3E) ∧
    decodeTableWord 16 0b0111000111111111 = some (.addImm 1 0xFF) ∧
    decodeTableWord 16 0b1001000100101111 = some (.sneReg 1 2 0xF) := by decide

/-- Family 8, from 8XY0 to 8XY7 and 8XYE. -/
theorem test_decode_family8 :
    decodeTableWord 16 0b1000000100100000 = some (.ldReg 1 2) ∧ decodeTableWord 16 0b1000000100100001 = some (.orReg 1 2) ∧
    decodeTableWord 16 0b1000000100100010 = some (.andReg 1 2) ∧ decodeTableWord 16 0b1000000100100011 = some (.xorReg 1 2) ∧
    decodeTableWord 16 0b1000000100100100 = some (.addReg 1 2) ∧ decodeTableWord 16 0b1000000100100101 = some (.subReg 1 2) ∧
    decodeTableWord 16 0b1000000100100110 = some (.shr 1 2) ∧ decodeTableWord 16 0b1000000100100111 = some (.subnReg 1 2) ∧
    decodeTableWord 16 0b1000000100101110 = some (.shl 1 2) := by decide

/-- Families A to E, from ANNN, BNNN, CXNN, DXYN, EX9E, EXA1. -/
theorem test_decode_familiesAtoE :
    decodeTableWord 16 0b1010001100000000 = some (.ldI 0x300) ∧ decodeTableWord 16 0b1011011111111111 = some (.jpV0 0x7FF) ∧
    decodeTableWord 16 0b1100000100001111 = some (.rnd 1 0x0F) ∧ decodeTableWord 16 0b1101000000010010 = some (.drw 0 1 2) ∧
    decodeTableWord 16 0b1110001010011110 = some (.skp 2) ∧ decodeTableWord 16 0b1110001010100001 = some (.sknp 2) := by
  decide

/-- Family F, from its nine low bytes. -/
theorem test_decode_familyF :
    decodeTableWord 16 0b1111000100000111 = some (.ldVxDT 1) ∧ decodeTableWord 16 0b1111001100001010 = some (.ldVxK 3) ∧
    decodeTableWord 16 0b1111000000010101 = some (.ldDTVx 0) ∧ decodeTableWord 16 0b1111000000011000 = some (.ldSTVx 0) ∧
    decodeTableWord 16 0b1111000100011110 = some (.addI 1) ∧ decodeTableWord 16 0b1111000000101001 = some (.ldF 0) ∧
    decodeTableWord 16 0b1111000000110011 = some (.ldB 0) ∧ decodeTableWord 16 0b1111111101010101 = some (.storeRegs 0xF) ∧
    decodeTableWord 16 0b1111001001100101 = some (.loadRegs 2) := by decide

/-- A28, A29, K8, K9, M24: unknown sub-opcodes are rejected by name. -/
theorem test_decode_rejects :
    decodeWord 0x8128 = .error (.unknownAlu 0x8) ∧ decodeWord 0x812F = .error (.unknownAlu 0xF) ∧
    decodeWord 0xE29F = .error (.unknownKey 0x9F) ∧ decodeWord 0xE000 = .error (.unknownKey 0x00) ∧
    decodeWord 0xF143 = .error (.unknownMisc 0x43) ∧ decodeWord 0xF030 = .error (.unknownMisc 0x30) := by decide

theorem test_decode_truncated : decode [0x60] = .error .truncated := by decide

theorem test_encode_words :
    encode (.drw 0xA 0xB 5) = 0xDAB5 ∧ encode (.seReg 1 2 7) = 0x5127 ∧ encode (.storeRegs 1) = 0xF155 := by decide

/-! ### Families 0 to 5 and 9 -/

/-- F2: the near miss of 00E0 is a no-op. -/
theorem test_sys : look (before 0x00E1) (fun t => (t.pc, t.mode, t.events)) = some (0x0202, .run, []) := by decide

/-- S4: a lit screen becomes clear, one event. -/
theorem test_cls : look (before 0x00E0 (lit 3 4)) (fun t => (fbGet t.fb 3 4, t.events)) = some (false, [.clearAll]) := by
  decide

/-- F10: the popped address is not masked. -/
theorem test_ret : look (before 0x00EE (stacked 1 0x1000)) (fun t => (t.sp, t.pc, t.stack[0])) =
    some (0, 0x1000, 0x1000) := by decide

/-- F11. -/
theorem test_ret_underflow : look (before 0x00EE) (fun t => (t.mode, t.halt, t.pc, t.sp)) =
    some (.halt, { cause := .stackUnderflow, word := 0x00EE, pc := 0x0200 }, 0x0202, 0) := by decide

/-- F5: an odd target. -/
theorem test_jp : look (before 0x1201) (·.pc) = some 0x0201 := by decide

/-- F8: the return address is not masked. -/
theorem test_call : look (before 0x2000 (·.setPc 0x0FFE)) (fun t => (t.stack[0], t.sp, t.pc)) =
    some (0x1000, 1, 0x0000) := by decide

/-- P5c, iteration 17. -/
theorem test_call_overflow : look (before 0x2200 (stacked 16 0x0202)) (fun t => (t.mode, t.halt, t.pc, t.sp)) =
    some (.halt, { cause := .stackOverflow, word := 0x2200, pc := 0x0200 }, 0x0202, 16) := by decide

/-- F24: PC wraps twice. -/
theorem test_seImm_wraps : look (before 0x3300 (·.setPc 0xFFFE)) (·.pc) = some 0x0002 := by decide

/-- F13. -/
theorem test_seImm_no_skip : look (before 0x3310 (·.setV 3 0x11)) (·.pc) = some 0x0202 := by decide

/-- F15. -/
theorem test_sneImm : look (before 0x4310 (·.setV 3 0x11)) (·.pc) = some 0x0204 := by decide

/-- F14. -/
theorem test_sneImm_no_skip : look (before 0x4310 (·.setV 3 0x10)) (·.pc) = some 0x0202 := by decide

/-- F18: the low nibble is ignored. -/
theorem test_seReg : look (before 0x5127 fun s => (s.setV 1 0x07).setV 2 0x07) (·.pc) = some 0x0204 := by decide

/-- F17. -/
theorem test_seReg_no_skip : look (before 0x5120 fun s => (s.setV 1 0x07).setV 2 0x08) (·.pc) = some 0x0202 := by decide

/-- F22: the low nibble is ignored. -/
theorem test_sneReg : look (before 0x912F fun s => (s.setV 1 0x07).setV 2 0x08) (·.pc) = some 0x0204 := by decide

/-- F23. -/
theorem test_sneReg_same : look (before 0x9110 (·.setV 1 0x09)) (·.pc) = some 0x0202 := by decide

/-! ### Families 6, 7, 8 -/

/-- S1: VF as a plain destination. -/
theorem test_ldImm : look (before 0x6FAB) (fun t => (t.getV 0xF, t.pc)) = some (0xAB, 0x0202) := by decide

/-- F25: an odd PC, the low byte fetched from address 0. -/
theorem test_ldImm_wrapped_fetch : look (before 0x6001 (·.setPc 0xFFFF)) (fun t => (t.getV 0, t.pc)) =
    some (0x01, 0x0001) := by decide

/-- A25: no flag. -/
theorem test_addImm : look (before 0x7102 fun s => (s.setV 1 0xFF).setV 0xF 0x55) (fun t => (t.getV 1, t.getV 0xF)) =
    some (0x01, 0x55) := by decide

/-- A24. -/
theorem test_ldReg : look (before 0x8120 (·.setV 2 0x7C)) (·.getV 1) = some 0x7C := by decide

/-- A21. -/
theorem test_orReg : look (before 0x8121 fun s => ((s.setV 1 0xF0).setV 2 0x0F).setV 0xF 0x55)
    (fun t => (t.getV 1, t.getV 0xF)) = some (0xFF, 0x55) := by decide

/-- A22. -/
theorem test_andReg : look (before 0x8122 fun s => ((s.setV 1 0xF0).setV 2 0x3C).setV 0xF 0x55)
    (fun t => (t.getV 1, t.getV 0xF)) = some (0x30, 0x55) := by decide

/-- A23. -/
theorem test_xorReg : look (before 0x8123 fun s => ((s.setV 1 0xF0).setV 2 0x3C).setV 0xF 0x55)
    (fun t => (t.getV 1, t.getV 0xF)) = some (0xCC, 0x55) := by decide

/-- A3: X = 15, the result overwrites the carry. -/
theorem test_addReg_into_vf : look (before 0x8F14 fun s => (s.setV 0xF 0xFF).setV 1 0x01) (·.getV 0xF) = some 0x00 := by
  decide

/-- A6: Y = 15, the old VF is the addend. -/
theorem test_addReg_from_vf : look (before 0x81F4 fun s => (s.setV 1 0xFF).setV 0xF 0x01)
    (fun t => (t.getV 1, t.getV 0xF)) = some (0x00, 0x01) := by decide

/-- A7: equal operands borrow nothing. -/
theorem test_subReg_equal : look (before 0x8125 fun s => (s.setV 1 0x42).setV 2 0x42)
    (fun t => (t.getV 1, t.getV 0xF)) = some (0x00, 0x01) := by decide

/-- A11: Y = 15, the old VF is subtracted. -/
theorem test_subReg_from_vf : look (before 0x81F5 fun s => (s.setV 1 0x05).setV 0xF 0x07)
    (fun t => (t.getV 1, t.getV 0xF)) = some (0xFE, 0x00) := by decide

/-- A15: VY is ignored. -/
theorem test_shr : look (before 0x8126 fun s => (s.setV 1 0x05).setV 2 0xFF)
    (fun t => (t.getV 1, t.getV 0xF, t.getV 2)) = some (0x02, 0x01, 0xFF) := by decide

/-- A16: bit 7 becomes 0. -/
theorem test_shr_even : look (before 0x8126 fun s => (s.setV 1 0xFE).setV 2 0x01)
    (fun t => (t.getV 1, t.getV 0xF)) = some (0x7F, 0x00) := by decide

/-- A13: a borrow. -/
theorem test_subnReg_borrow : look (before 0x8127 fun s => (s.setV 1 0x10).setV 2 0x01)
    (fun t => (t.getV 1, t.getV 0xF)) = some (0xF1, 0x00) := by decide

/-- A14: no borrow. -/
theorem test_subnReg : look (before 0x8127 fun s => (s.setV 1 0x01).setV 2 0x10)
    (fun t => (t.getV 1, t.getV 0xF)) = some (0x0F, 0x01) := by decide

/-- A17: VY is ignored. -/
theorem test_shl : look (before 0x812E (·.setV 1 0x81)) (fun t => (t.getV 1, t.getV 0xF)) = some (0x02, 0x01) := by
  decide

/-- A20: X = 15, the shifted value and not the flag. -/
theorem test_shl_into_vf : look (before 0x8F0E (·.setV 0xF 0x81)) (·.getV 0xF) = some 0x02 := by decide

/-! ### Families A to E -/

/-- B1: the upper bits are cleared. -/
theorem test_ldI : look (before 0xA300 (·.setI 0xF123)) (·.i) = some 0x0300 := by decide

/-- B3: the sum is not reduced. -/
theorem test_jpV0_unreduced : look (before 0xBFFF (·.setV 0 0x03)) (·.pc) = some 0x1002 := by decide

/-- B4: the offset is V0, not V7. -/
theorem test_jpV0_offset : look (before 0xB7FF fun s => (s.setV 0 0x01).setV 7 0x80) (·.pc) = some 0x0800 := by decide

/-- B5. -/
theorem test_rnd : look (before 0xC10F (withEnv { Env.quiet with rnd := 0xB7 })) (·.getV 1) = some 0x07 := by decide

/-- B8: VF as a plain destination. -/
theorem test_rnd_vf : look (before 0xCFF0 (withEnv { Env.quiet with rnd := 0xFF })) (·.getV 0xF) = some 0xF0 := by decide

/-- D6: a set and a clear in one row. -/
theorem test_drw : look (before 0xD011 fun s => stored 0x300 [0xC0] (lit 1 0 (s.setI 0x300)))
    (fun t => (t.getV 0xF, t.events, fbGet t.fb 0 0, fbGet t.fb 1 0)) =
    some (0x01, [.pixelSet 0 0, .pixelClear 1 0], true, false) := by decide

/-- D8: X = 15, the old VF is the column. -/
theorem test_drw_from_vf :
    look (before 0xDF01 fun s => stored 0x300 [0x80] (((s.setI 0x300).setV 0xF 0x05).setV 0 0x02))
      (fun t => (t.getV 0xF, t.events)) = some (0x00, [.pixelSet 5 2]) := by decide

/-- K5: the key index is VX[3:0]. -/
theorem test_skp : look (before 0xE29E fun s => withEnv { Env.quiet with keyIn := 0x0020 } (s.setV 2 0x15))
    (fun t => (t.pc, t.keys)) = some (0x0204, 0x0020) := by decide

/-- K2: every key but 5. -/
theorem test_skp_no_skip : look (before 0xE29E fun s => withEnv { Env.quiet with keyIn := 0xFFDF } (s.setV 2 0x05)) (·.pc) =
    some 0x0202 := by decide

/-- K3. -/
theorem test_sknp : look (before 0xE2A1 (·.setV 2 0x05)) (·.pc) = some 0x0204 := by decide

/-- K6. -/
theorem test_sknp_no_skip :
    look (before 0xE2A1 fun s => withEnv { Env.quiet with keyIn := 0x0020 } (s.setV 2 0xF5)) (·.pc) = some 0x0202 := by
  decide

/-! ### Family F -/

/-- M1: the read comes before the decrement. -/
theorem test_ldVxDT : look (before 0xF107 (·.setDT (timerSet 0x03 0))) (fun t => (t.getV 1, t.dt.val)) =
    some (0x03, 0x02) := by decide

/-- Key wait, iteration 1: the event of the same iteration is discarded. -/
theorem test_ldVxK : look (before 0xF30A (withEnv (keyDown 7))) (fun t => (t.mode, t.waitX, t.pc, t.getV 3)) =
    some (.waitKey, 3, 0x0202, 0x00) := by decide

/-- M2: not decremented in its own iteration. -/
theorem test_ldDTVx : look (before 0xF015 (·.setV 0 0x03)) (fun t => (t.dt.val, decide (t.dt.base = t.tnow))) =
    some (0x03, true) := by decide

/-- M3. -/
theorem test_ldSTVx : look (before 0xF018 (·.setV 0 0x02)) (fun t => (t.st.val, t.tone)) = some (0x02, true) := by decide

/-- M5. -/
theorem test_ldSTVx_stops : look (before 0xF018 (·.setST (timerSet 0x09 0))) (fun t => (t.st.val, t.tone)) =
    some (0x00, false) := by decide

/-- M7: 16-bit wrap, no flag. -/
theorem test_addI : look (before 0xF11E fun s => ((s.setI 0xFFFF).setV 1 0x02).setV 0xF 0x44) (fun t => (t.i, t.getV 0xF)) =
    some (0x0001, 0x44) := by decide

/-- M9: the digit is VX[3:0]. -/
theorem test_ldF : look (before 0xF029 (·.setV 0 0x1A)) (·.i) = some 0x0082 := by decide

/-- M14. -/
theorem test_ldB : look (before 0xF033 fun s => (s.setI 0x300).setV 0 0xFF)
    (fun t => (t.memRead 0x300, t.memRead 0x301, t.memRead 0x302)) = some (0x02, 0x05, 0x05) := by decide

/-- M17: the addresses wrap, I does not move. -/
theorem test_ldB_wraps : look (before 0xF033 fun s => (s.setI 0x0FFF).setV 0 0xEA)
    (fun t => (t.memRead 0xFFF, t.memRead 0x000, t.memRead 0x001, t.i)) = some (0x02, 0x03, 0x04, 0x0FFF) := by decide

/-- M18: X is inclusive. -/
theorem test_storeRegs : look (before 0xF155 fun s => (counting 0x11 s).setI 0x300)
    (fun t => (t.memRead 0x300, t.memRead 0x301, t.memRead 0x302, t.i)) = some (0x11, 0x12, 0x00, 0x0300) := by decide

/-- M20: 16 registers, wrap. -/
theorem test_storeRegs_wraps : look (before 0xFF55 fun s => (counting 0xA0 s).setI 0x0FF8)
    (fun t => (t.memRead 0xFF8, t.memRead 0xFFF, t.memRead 0x000, t.memRead 0x007)) = some (0xA0, 0xA7, 0xA8, 0xAF) := by
  decide

/-- M21. -/
theorem test_loadRegs : look (before 0xF265 fun s => stored 0x300 [0x02, 0x03, 0x04, 0x09] (s.setI 0x300))
    (fun t => (t.getV 0, t.getV 1, t.getV 2, t.getV 3)) = some (0x02, 0x03, 0x04, 0x00) := by decide

/-- M23: the address wraps. -/
theorem test_loadRegs_wraps : look (before 0xF165 fun s => stored 0x0FFF [0xAA] (s.setI 0x0FFF))
    (fun t => (t.getV 0, t.getV 1)) = some (0xAA, 0x00) := by decide

/-! ### The loop, faults and reset -/

/-- M24: an unknown low byte. -/
theorem test_illegal : look (before 0xF143) (fun t => (t.mode, t.halt, t.pc)) =
    some (.halt, { cause := .illegalInstruction, word := 0xF143, pc := 0x0200 }, 0x0202) := by decide

/-- Timers frozen by a halt, iteration 4: step (f) is not done and the tone is forced off. -/
theorem test_illegal_freezes_timers : look (before 0xFFFF (·.setST (timerSet 0x05 0))) (fun t => (t.st.val, t.tone)) =
    some (0x05, false) := by decide

/-- L2: closed comes before the fetch. -/
theorem test_closed : look (withEnv closedEnv (before 0xFFFF)) (fun t => (t.mode, t.halt, t.pc)) =
    some (.halt, { cause := .displayClosed, word := 0x0000, pc := 0x0200 }, 0x0200) := by decide

/-- A key wait for V3. -/
def waitingFor3 (e : Env) : State := withEnv e (State.reset.setWait .waitKey 3)

/-- Key wait, iteration 3: nothing is fetched. -/
theorem test_key_arrives : look (waitingFor3 (keyDown 0xB)) (fun t => (t.mode, t.getV 3, t.pc)) =
    some (.run, 0x0B, 0x0200) := by decide

/-- Key wait, the variant: closed beats the key. -/
theorem test_closed_beats_key : look (waitingFor3 { keyDown 5 with closed := true }) (fun t => (t.halt.cause, t.getV 3)) =
    some (.displayClosed, 0x00) := by decide

/-- A step in which `reset` is 1 and the loader has written `rom`. -/
def resetHigh (rom : List Byte) : Env := { Env.quiet with reset := true, image := rom }

/-- The core held in reset, with `e` as the next sample. -/
def heldState (e : Env) : State := withEnv e ((before 0x6A3E (stacked 3 0x0202)).hold (resetHigh []))

/-- A halted core: the display was closed while the tone sounded. -/
def haltedState : State := { (State.reset.setST (timerSet 0x05 0)).raiseBare .displayClosed with inputs := [Env.quiet] }

/-- R270: raising `reset` in HALT; the core idles at the reset values, so `halted` falls. -/
theorem test_reset_held : look (withEnv (resetHigh [0x12]) haltedState)
    (fun t => (t.held, t.halted, t.halt.cause, t.pc, t.st.val, t.memRead 0x200)) =
    some (true, false, .none, 0x0200, 0x00, 0x12) := by decide

/-- R270: while `reset` stays 1 nothing is fetched; the loader may have written more. -/
theorem test_reset_stays : look (heldState (resetHigh [0x12, 0x34])) (fun t => (t.held, t.pc, t.fetch, t.mode)) =
    some (true, 0x0200, 0x1234, .run) := by decide

/-- L1: a failed load. -/
theorem test_load_failure : look (heldState { Env.quiet with loadFail := true })
    (fun t => (t.held, t.mode, t.halt, t.pc)) =
    some (false, .halt, { cause := .loadFailure, word := 0x0000, pc := 0x0200 }, 0x0200) := by decide

/-- L4: a program of three bytes, then the fill byte. -/
theorem test_load : look (heldState { Env.quiet with image := [0x60, 0x01, 0x12] })
    (fun t => (t.mode, t.fetch, t.memRead 0x202, t.memRead 0x203, t.sp)) = some (.run, 0x6001, 0x12, 0x00, 0) := by decide

/-- `reset` falling on an empty program leaves State.reset (R52, R270). -/
theorem test_release_is_reset : (State.reset.hold Env.quiet).release Env.quiet = State.reset := by decide

/-- R274: glyph 7 is F0 10 20 40 40 (P3). -/
theorem test_font : (List.range 5).map (fun k => State.reset.memRead (0x073 + k)) = [0xF0, 0x10, 0x20, 0x40, 0x40] := by
  decide

/-- S7, irregular cadence: no catch-up. -/
theorem test_timer_late : timerAfter 1000 (timerSet 5 100) [1099, 1100, 1101, 3100, 4099] = { val := 3, base := 3100 } := by
  decide

/-- S7, exact cadence: it stops at 0 and its baseline stays. -/
theorem test_timer_stops : timerAfter 10 (timerSet 2 7) [17, 27, 37] = { val := 0, base := 27 } := by decide

/-! ### Witnesses: what the hypotheses of each statement are met by -/

theorem test_witness_DecodeOfEncode : (Instr.drw 0xF 0xA 0).wf = true ∧ (Instr.sys 0xFFF).wf = true := by decide

theorem test_witness_EncodeOfDecode : decodeWord 0x9ABF = .ok (.sneReg 0xA 0xB 0xF) := by decide

theorem test_witness_StepRunsTheDecodedInstruction :
    Running (before 0x6A3E) ∧
    decode [(before 0x6A3E).memRead 0x200, (before 0x6A3E).memRead 0x201] = .ok (.ldImm 0xA 0x3E, []) :=
  ⟨⟨⟨rfl, rfl⟩, rfl, rfl⟩, by decide⟩

/-- The boundary of its instruction's answer: one that halts, so that no timer is updated. -/
theorem test_witness_StepRunsTheDecodedInstruction_halting :
    Running (before 0x00EE) ∧ decode [(before 0x00EE).memRead 0x200, (before 0x00EE).memRead 0x201] = .ok (.ret, []) :=
  ⟨⟨⟨rfl, rfl⟩, rfl, rfl⟩, by decide⟩

theorem test_witness_IllegalWordHalts :
    Running (before 0x8128) ∧ decodeWord (before 0x8128).fetch = .error (.unknownAlu 8) :=
  ⟨⟨⟨rfl, rfl⟩, rfl, rfl⟩, by decide⟩

theorem test_witness_ClosedDisplayEndsTheRun :
    let s := withEnv closedEnv (before 0x6A3E)
    Released s ∧ s.mode ≠ .halt ∧ s.sample.closed = true := ⟨⟨rfl, rfl⟩, by decide, rfl⟩

/-- The same in a key wait. -/
theorem test_witness_ClosedDisplayEndsTheRun_waiting :
    let s := waitingFor3 closedEnv
    Released s ∧ s.mode = .waitKey ∧ s.sample.closed = true := ⟨⟨rfl, rfl⟩, rfl, rfl⟩

theorem test_witness_HaltIsAbsorbing : haltedState.mode = .halt ∧ Released haltedState := ⟨rfl, rfl, rfl⟩

/-- Late by 9 ticks, with keys held. -/
theorem test_witness_IterationIsPacedAndSamplesKeys :
    let s := withEnv { Env.quiet with late := 9, keyIn := 0x8001 } (before 0x6A3E)
    ∃ t, Released s ∧ s.mode ≠ .halt ∧ step s = .next t :=
  ⟨_, ⟨rfl, rfl⟩, by decide, rfl⟩

/-- R219, the transitions from RUN. -/
theorem test_witness_ModeTransitionsAreTheListed_run :
    look (before 0xF30A) (·.mode) = some .waitKey ∧ look (before 0x8128) (·.mode) = some .halt ∧
    look (before 0x00EE) (·.mode) = some .halt ∧ look (before 0x2200 (stacked 16 0)) (·.mode) = some .halt ∧
    look (withEnv closedEnv (before 0)) (·.mode) = some .halt := by decide

/-- R219, the transitions from WAITKEY, from HALT, and by reset. -/
theorem test_witness_ModeTransitionsAreTheListed_rest :
    look (waitingFor3 (keyDown 0)) (·.mode) = some .run ∧ look (waitingFor3 closedEnv) (·.mode) = some .halt ∧
    look haltedState (·.mode) = some .halt := by decide

/-- R219, the transitions into reset from HALT, and out of it: to RUN, and to HALT on a failed load and on an image one
byte too long. -/
theorem test_witness_ModeTransitionsAreTheListed_reset :
    look (withEnv (resetHigh []) haltedState) (·.mode) = some .run ∧
    look (heldState Env.quiet) (·.mode) = some .run ∧
    look (heldState { Env.quiet with loadFail := true }) (·.mode) = some .halt ∧
    3584 < (List.replicate 3585 (0x00 : Byte)).length :=
  ⟨by decide, by decide, by decide, by rw [List.length_replicate]; decide⟩

theorem test_witness_HaltingStepWritesNothingElse :
    let s := before 0x2200 (stacked 16 0x0202)
    ∃ t, Released s ∧ s.mode ≠ .halt ∧ step s = .next t ∧ t.mode = .halt :=
  ⟨_, ⟨rfl, rfl⟩, by decide, rfl, by decide⟩

/-- At both ends of the range. -/
theorem test_witness_StepAlwaysAnswersNext : StackInRange State.reset ∧ StackInRange (stacked 16 0 State.reset) := by
  unfold StackInRange; decide

theorem test_witness_OnlyUnreachableStackPointersFault :
    let s := stacked 17 0 State.reset
    16 < s.sp.toNat ∧ exec .ret s = .fault .spOutOfRange ∧ exec (.call 0x200) s = .fault .spOutOfRange :=
  ⟨by decide, rfl, rfl⟩

/-- From HALT, and from a state already held. -/
theorem test_witness_ResetHoldsTheCoreAtTheTable :
    (withEnv (resetHigh [0x12]) haltedState).sample.reset = true ∧ (heldState (resetHigh [])).sample.reset = true :=
  ⟨rfl, rfl⟩

/-- The two load clauses meet between the lengths 3584 and 3585. -/
theorem test_witness_ResetPulseLeavesTheTable :
    let s := heldState { Env.quiet with late := 3, image := List.replicate 3584 0x00 }
    s.held = true ∧ s.sample.reset = false ∧ s.sample.loadFail = false ∧ s.sample.image.length ≤ 3584 ∧
      3584 < (List.replicate 3585 (0x00 : Byte)).length :=
  ⟨rfl, rfl, rfl, Nat.le_of_eq List.length_replicate, by rw [List.length_replicate]; decide⟩

theorem test_witness_ResetPulseLoadsTheImage :
    let s := heldState { Env.quiet with image := [0x60, 0x01, 0x12] }
    s.held = true ∧ s.sample.loadFail = false ∧ s.cfg.wf = true ∧ s.sample.image.length ≤ 3584 := by decide

/-- The ends of the font, of the space below the program, and of memory (R273), while `reset` is 1. -/
theorem test_witness_ResetPulseLoadsTheImage_boundaries :
    look (heldState (resetHigh [0x60, 0x01, 0x12])) (fun t =>
      [0x04F, 0x050, 0x09F, 0x0A0, 0x1FF, 0x200, 0xFFF].map t.memRead) =
    some [0x00, 0xF0, 0x80, 0x00, 0x00, 0x60, 0x00] := by decide

/-- A state whose next step stores three bytes, with an address on the stack, a lit cell and both timers
running. -/
def busy : State :=
  before 0xF033 fun s => { lit 3 4 (stacked 2 0x0202 ((((s.setI 0x0FFF).setV 0 0xEA).setDT (timerSet 0x03 0)).setST (timerSet 0x02 0))) with
    events := [.pixelSet 3 4] }

/-- It meets every invariant, and its step answers a next state: the five statements of "every step keeps". -/
theorem test_witness_StepKeeps : Inv busy ∧ ∃ t, step busy = .next t := by
  refine ⟨⟨?_, ?_, ?_, ?_, ?_⟩, _, rfl⟩
  · show busy.mem.wf busy.cfg = true
    decide
  · show busy.sp.toNat ≤ stackDepth
    decide
  · exact ⟨rfl, by decide, by decide⟩
  · exact ⟨by decide, rfl, rfl⟩
  · show busy.events.foldl fbApply fbClear = busy.fb
    decide

/-- A halted state meets its invariant too. -/
theorem test_witness_StepKeepsHaltRecord : HaltRecordAgrees haltedState ∧ ∃ t, step haltedState = .next t ∧ t.mode = .halt :=
  ⟨⟨rfl, rfl, rfl⟩, _, rfl, rfl⟩

/-- The boundary between the two clauses: elapsed T60 - 1, T60. -/
theorem test_witness_TimerUpdate :
    timerUpdate 1000 1099 (timerSet 5 100) = { val := 5, base := 100 } ∧
    timerUpdate 1000 1100 (timerSet 5 100) = { val := 4, base := 1100 } ∧
    timerUpdate 1000 50 (timerSet 0 100) = { val := 0, base := 100 } := by decide

theorem test_witness_TimerNeverRunsFast : List.IsChain (· ≤ ·) [100, 1100, 1101, 3100, 3100] := by decide

/-- Both timers run and neither is set; the iteration is late. -/
theorem test_witness_TimersFallOncePerIteration :
    let s := withEnv { Env.quiet with late := 7 } busy
    ∃ t, ClocksAgree s ∧ Released s ∧ s.mode ≠ .halt ∧ step s = .next t ∧ t.mode ≠ .halt ∧ s.cfg.wf = true ∧
      s.current = some (.ldB 0) :=
  ⟨_, ⟨rfl, by decide, by decide⟩, ⟨rfl, rfl⟩, by decide, rfl, by decide, by decide, by decide⟩

/-- The delay timer is set, and in the other state the sound timer. -/
theorem test_witness_TimersFallOncePerIteration_set :
    (before 0xF015).current = some (.ldDTVx 0) ∧ (before 0xF018).current = some (.ldSTVx 0) ∧
    (∃ t, step (before 0xF015) = .next t ∧ t.mode ≠ .halt) ∧ ∃ t, step (before 0xF018) = .next t ∧ t.mode ≠ .halt :=
  ⟨by decide, by decide, ⟨_, rfl, by decide⟩, _, rfl, by decide⟩

theorem test_witness_TimerInstructions : (before 0xF018 (·.setV 0 0x02)).mode ≠ .halt := by decide

/-- The words around the two that are excluded. -/
theorem test_witness_SysDoesNothing :
    Running (before 0x00E1) ∧ (before 0x00E1).fetch.toNat = 0x00E1 ∧ (before 0x00EF).fetch.toNat = 0x00EF ∧
    (before 0x0FFF).fetch.toNat < 0x1000 :=
  ⟨⟨⟨rfl, rfl⟩, rfl, rfl⟩, by decide, by decide, by decide⟩

/-- One address held, all 16 held, none held. -/
theorem test_witness_RetPopsOrUnderflows :
    (1 ≤ (stacked 1 0 State.reset).sp.toNat ∧ (stacked 1 0 State.reset).sp.toNat ≤ 16) ∧
    (1 ≤ (stacked 16 0 State.reset).sp.toNat ∧ (stacked 16 0 State.reset).sp.toNat ≤ 16) ∧
    State.reset.sp.toNat = 0 := by decide

/-- One slot free, none free. -/
theorem test_witness_CallPushesOrOverflows :
    (stacked 15 0 State.reset).sp.toNat < 16 ∧ (stacked 16 0 State.reset).sp.toNat = 16 := by decide

theorem test_witness_RetUndoesCall :
    ∃ t u : State, (stacked 15 0 State.reset).sp.toNat < 16 ∧ exec (.call 0x300) (stacked 15 0 State.reset) = .next t ∧
      u.sp = t.sp ∧ u.stack = t.stack ∧ u.pc = 0x0304 :=
  ⟨_, (((stacked 15 0 State.reset).push 0x0200).getD State.reset).setPc 0x0304, by decide, rfl, rfl, rfl, rfl⟩

theorem test_witness_IndexWrites : State.reset.cfg.wf = true := by decide

theorem test_witness_RandomByteIsMasked :
    Running (before 0xC10F) ∧ (before 0xC10F).current = some (.rnd 1 0x0F) := ⟨⟨⟨rfl, rfl⟩, rfl, rfl⟩, by decide⟩

/-- A one-cell sprite at the last column and row. -/
def cornerSprite : State := stored 0x300 [0x80] ((State.reset.setI 0x300).setV 0 0xFF)

/-- One cell is covered, its neighbour to the right, wrapped, is not. -/
theorem test_witness_DrawInvertsTheSpritesCells :
    SpriteCovers cornerSprite 0xFF 0xFF 1 63 31 ∧ ¬ SpriteCovers cornerSprite 0xFF 0xFF 1 0 31 := by
  refine ⟨⟨0, by decide, 0, by decide, by decide, by decide, by decide⟩, ?_⟩
  rintro ⟨row, hr, bit, hb, hs, hx, -⟩
  obtain rfl : row = 0 := by omega
  interval_cases bit <;> revert hs hx <;> decide

/-- A covered cell that was lit, and none. -/
theorem test_witness_DrawInvertsTheSpritesCells_collision :
    fbGet (lit 63 31 cornerSprite).fb 63 31 = true ∧ fbGet cornerSprite.fb 63 31 = false := by decide

/-- The second draw uses other registers of the same values, since VF may have been a coordinate. -/
theorem test_witness_SecondDrawRestoresTheScreen :
    ∃ t u v, exec (.drw 0xF 0 1) (cornerSprite.setV 0xF 0x05) = .next t ∧ u.fb = t.fb ∧ u.cfg = t.cfg ∧ u.mem = t.mem ∧
      u.i = t.i ∧ u.getV 1 = (cornerSprite.setV 0xF 0x05).getV 0xF ∧
      u.getV 0 = (cornerSprite.setV 0xF 0x05).getV 0 ∧ exec (.drw 1 0 1) u = .next v := by
  refine ⟨_, State.setV (State.drawRows ((cornerSprite.setV 0xF 0x05).setV vf 0x00) 0x05 0xFF 1) 1 0x05, _, rfl,
    ?_, ?_, ?_, ?_, ?_, ?_, rfl⟩ <;> decide

theorem test_witness_KeyWaitSuspends :
    Running (before 0xF30A (withEnv (keyDown 7))) ∧ (before 0xF30A (withEnv (keyDown 7))).current = some (.ldVxK 3) :=
  ⟨⟨⟨rfl, rfl⟩, rfl, rfl⟩, by decide⟩

/-- With an event and without one. -/
theorem test_witness_KeyWaitResumesOnTheEvent :
    (Waiting (waitingFor3 (keyDown 0xF)) ∧ (waitingFor3 (keyDown 0xF)).sample.kd = some 0xF) ∧
    Waiting (waitingFor3 Env.quiet) ∧ (waitingFor3 Env.quiet).sample.kd = none :=
  ⟨⟨⟨⟨rfl, rfl⟩, rfl, rfl⟩, rfl⟩, ⟨⟨rfl, rfl⟩, rfl, rfl⟩, rfl⟩

/-- The bytes next to a full block of stores are outside it; the block takes in its last byte. -/
theorem test_witness_BlockStore :
    (∀ k, k ≤ 15 → 0x310 % 4096 ≠ (0x300 + k) % 4096) ∧ (∀ k, k < 3 → 0x303 % 4096 ≠ (0x300 + k) % 4096) := by
  constructor <;> intro k hk <;> omega

theorem test_witness_BlockRoundTrip :
    let s := (counting 0x11 State.reset).setI 0x0FFF
    ∃ t u v, exec (.storeRegs 2) s = .next t ∧ u.mem = t.mem ∧ u.cfg = t.cfg ∧ u.i = t.i ∧ u.getV 0 = 0x00 ∧
      exec (.loadRegs 2) u = .next v :=
  ⟨_, State.setV (State.storeBlock ((counting 0x11 State.reset).setI 0x0FFF) 3) 0 0x00, _, rfl, rfl, rfl, rfl, rfl, rfl⟩

/-- An instruction whose destination is VF's neighbour, and one that writes no register. -/
theorem test_witness_InstructionsWriteOnlyTheirRegisters :
    writesReg (.addReg 0xE 1) 0xD = false ∧ writesReg (.storeRegs 0xF) 0 = false ∧ writesReg (.loadRegs 3) 4 = false ∧
    (∃ t, exec (.addReg 0xE 1) State.reset = .next t) ∧ (∃ t, exec (.storeRegs 0xF) State.reset = .next t) ∧
    ∃ t, exec (.loadRegs 3) State.reset = .next t :=
  ⟨by decide, by decide, by decide, ⟨_, rfl⟩, ⟨_, rfl⟩, _, rfl⟩

theorem test_witness_InstructionsChangeOnlyTheirParts : ∃ t, exec (.drw 0 1 5) State.reset = .next t := ⟨_, rfl⟩

theorem test_witness_RunDropsTheKeyEvent : State.reset.mode = .run := rfl

theorem test_witness_RandomAndKeysReachOnlyTheirReaders :
    readsRnd (.skp 1) = false ∧ readsKeys (.skp 1) = true ∧ readsKeys (.rnd 1 0xFF) = false ∧
    readsRnd (.rnd 1 0xFF) = true := by decide

end Sys2Proof.Tests
end

section
/-!
PROOFS. The outputs `tone`, `dt_nonzero` and `halted` read off the state (R48, R49, R196).
-/

namespace Sys2Proof.Machine

variable (s : State)

theorem State.tone_eq_true_iff : s.tone = true ↔ s.st.val.toNat ≠ 0 ∧ s.mode ≠ .halt := by
  rw [State.tone, Bool.and_eq_true]
  exact and_congr (decide_eq_true_iff.trans BitVec.toNat_ne) decide_eq_true_iff

theorem State.dtNonzero_eq_true_iff : s.dtNonzero = true ↔ s.dt.val.toNat ≠ 0 :=
  decide_eq_true_iff.trans BitVec.toNat_ne

theorem State.halted_eq_true_iff : s.halted = true ↔ s.mode = .halt := decide_eq_true_iff

/-- Settles O29: each output decides its condition, and a byte is nonzero exactly when its number is. -/
theorem toneFollowsTheSoundTimer : Obligations.ToneFollowsTheSoundTimer := fun s =>
  ⟨s.tone_eq_true_iff, s.dtNonzero_eq_true_iff, s.halted_eq_true_iff⟩

end Sys2Proof.Machine
end

section
/-!
PROOFS. The memory port: a byte read after a byte write, and the frame of a memory write (R61, R62, R63).
-/

namespace Sys2Proof.Machine

/-- The frame of every operation that replaces memory and nothing else (`memWrite`, `storeBlock`). -/
theorem changesOnly_memory (s : State) (m : Memory) : ChangesOnly s { s with mem := m } [.memory] := by
  intro p hp
  cases p with
  | memory => exact absurd (List.mem_singleton_self _) hp
  | regs => exact fun _ => rfl
  | pc | index | delayTimer | soundTimer => rfl
  | stack | display => exact ⟨rfl, rfl⟩
  | runState => exact ⟨rfl, rfl, rfl⟩
  | surroundings => exact ⟨rfl, rfl, rfl, rfl, rfl, rfl, rfl, rfl⟩

/-- Settles O5: the read-after-write law of the port, its reduction of the address, and the frame of a memory update. -/
theorem readAfterWrite : Obligations.ReadAfterWrite := fun s a n b =>
  ⟨s.memWrite_memRead a n b, (s.memRead_mod n).symm, changesOnly_memory s _⟩

end Sys2Proof.Machine
end

section
/-!
PROOFS. What the decoder rejects: the families that hold illegal words, and the sub-opcodes each of them rejects (R86).
-/

namespace Sys2Proof

/-- Every word of family 0 decodes: what is not one of the two whole words is the no-op (R87). -/
theorem decodeFamily0_ne_error (w : Word) (r : Reject) : decodeFamily0 w ≠ .error r := by
  unfold decodeFamily0
  split
  · exact nofun
  · split <;> exact nofun

theorem decodeFamily8_error_iff (w : Word) :
    (∃ r, decodeFamily8 w = .error r) ↔ w.toNat % 16 ∈ [0x8, 0x9, 0xA, 0xB, 0xC, 0xD, 0xF] := by
  have hlt := (fieldN w).isLt
  rw [← fieldN_toNat]
  unfold decodeFamily8
  split
  case h_10 =>
    -- Among the nibbles, those listed are the ones that no other branch takes.
    simp only [Except.error.injEq, exists_eq', List.mem_cons, List.not_mem_nil, or_false, true_iff, imp_false] at *
    omega
  all_goals next h => simp [h]

theorem decodeFamilyE_error_iff (w : Word) :
    (∃ r, decodeFamilyE w = .error r) ↔ w.toNat % 256 ∉ [0x9E, 0xA1] := by
  rw [← fieldNN_toNat]
  unfold decodeFamilyE
  split
  case h_3 => simp_all
  all_goals next h => simp [h]

theorem decodeFamilyF_error_iff (w : Word) :
    (∃ r, decodeFamilyF w = .error r) ↔
      w.toNat % 256 ∉ [0x07, 0x0A, 0x15, 0x18, 0x1E, 0x29, 0x33, 0x55, 0x65] := by
  rw [← fieldNN_toNat]
  unfold decodeFamilyF
  split
  case h_10 => simp_all
  all_goals next h => simp [h]

/-- A word is rejected in family 8, E or F, by that family's decoder; the other thirteen families reject nothing. -/
theorem decodeWord_error_iff (w : Word) (r : Reject) :
    decodeWord w = .error r ↔
      (w.toNat / 4096 = 0x8 ∧ decodeFamily8 w = .error r) ∨
      (w.toNat / 4096 = 0xE ∧ decodeFamilyE w = .error r) ∨
      (w.toNat / 4096 = 0xF ∧ decodeFamilyF w = .error r) := by
  have hlt := (fieldFamily w).isLt
  rw [← fieldFamily_toNat]
  unfold decodeWord
  split
  case h_1 h => simp [h, decodeFamily0_ne_error]
  case h_16 =>
    have hF : (fieldFamily w).toNat = 0xF := by grind
    simp [hF]
  all_goals next h => simp [h]

/-- Settles O3: the rejections of `decodeWord`, family by family, and in each family the sub-opcodes it rejects. -/
theorem illegalWordsAreTheUnknownSubOpcodes : Obligations.IllegalWordsAreTheUnknownSubOpcodes := fun w => by
  simp only [decodeWord_error_iff, exists_or, exists_and_left, decodeFamily8_error_iff, decodeFamilyE_error_iff,
    decodeFamilyF_error_iff]

end Sys2Proof
end

section
/-!
PROOFS. The frames of the flow instructions: what a write of PC, of the call stack, of the screen and of the halt
record leaves alone (R109, R244).
-/

namespace Sys2Proof.Machine

variable (s : State)

theorem samePart_refl (p : Part) : SamePart s s p := by
  cases p with
  | regs | memory => exact fun _ => rfl
  | pc | index | delayTimer | soundTimer => rfl
  | stack | display => exact ⟨rfl, rfl⟩
  | runState => exact ⟨rfl, rfl, rfl⟩
  | surroundings => exact ⟨rfl, rfl, rfl, rfl, rfl, rfl, rfl, rfl⟩

theorem changesOnly_setPc (a : Word) : ChangesOnly s (s.setPc a) [.pc] := by
  intro p hp
  have same := samePart_refl s p
  cases p with
  | pc => exact absurd List.mem_cons_self hp
  | _ => exact same

/-- The frame of a CALL or a RET that does not fault: PC and the call stack are written. -/
theorem changesOnly_setPc_stack (stack : Vector Word 16) (sp : BitVec 5) (a : Word) :
    ChangesOnly s ({ s with stack := stack, sp := sp }.setPc a) [.pc, .stack] := by
  intro p hp
  have same := samePart_refl s p
  cases p with
  | pc => exact absurd List.mem_cons_self hp
  | stack => exact absurd (List.mem_cons_of_mem _ List.mem_cons_self) hp
  | _ => exact same

theorem changesOnly_setFb_emit (fb : Framebuffer) (e : Event) :
    ChangesOnly s ((s.setFb fb).emit e) [.display] := by
  intro p hp
  have same := samePart_refl s p
  cases p with
  | display => exact absurd List.mem_cons_self hp
  | _ => exact same

theorem changesOnly_raise (c : Cause) (w pc0 : Word) : ChangesOnly s (s.raise c w pc0) [.runState] := by
  intro p hp
  have same := samePart_refl s p
  cases p with
  | runState => exact absurd List.mem_cons_self hp
  | _ => exact same

theorem State.raised_raise (c : Cause) (w pc0 : Word) : Raised s (s.raise c w pc0) c w pc0 :=
  ⟨rfl, rfl, rfl, changesOnly_raise s c w pc0⟩

end Sys2Proof.Machine
end

section
/-!
PROOFS. CALL and RET (R102, R104): where the call stack has room or holds an address, and where it faults (R242, R243).
-/

namespace Sys2Proof.Machine

variable {s : State}

theorem State.push_of_lt (a : Word) (h : s.sp.toNat < 16) :
    s.push a = some { s with stack := s.stack.set s.sp.toNat a h, sp := s.sp + 1 } := dif_pos h

theorem State.pop_of_held (h1 : 1 ≤ s.sp.toNat) (h16 : s.sp.toNat ≤ 16) :
    s.pop = some (s.stack[s.sp.toNat - 1], { s with sp := s.sp - 1 }) := dif_pos ⟨h1, h16⟩

theorem exec_call_of_lt (nnn : BitVec 12) (h : s.sp.toNat < 16) :
    exec (.call nnn) s =
      .next ({ s with stack := s.stack.set s.sp.toNat s.pc h, sp := s.sp + 1 }.setPc (zext16 nnn)) := by
  rw [exec, execCall, if_neg h.ne, State.push_of_lt _ h]

theorem exec_call_of_full (nnn : BitVec 12) (h : s.sp.toNat = 16) :
    exec (.call nnn) s = .next (s.raise .stackOverflow (wordNNN 0x2 nnn) (s.pc - 2)) := by
  rw [exec, execCall, if_pos h, State.raiseInstr_eq]

theorem exec_ret_of_held (h1 : 1 ≤ s.sp.toNat) (h16 : s.sp.toNat ≤ 16) :
    exec .ret s = .next ({ s with sp := s.sp - 1 }.setPc s.stack[s.sp.toNat - 1]) := by
  have hne : s.sp ≠ 0 := BitVec.toNat_ne.mpr (Nat.ne_of_gt h1)
  rw [exec, execRet, if_neg hne, State.pop_of_held h1 h16]

theorem exec_ret_of_empty (h : s.sp.toNat = 0) :
    exec .ret s = .next (s.raise .stackUnderflow 0x00EE (s.pc - 2)) := by
  have hz : s.sp = 0 := BitVec.eq_of_toNat_eq h
  rw [exec, execRet, if_pos hz, State.raiseInstr_eq]

/-- Settles O34: with a free entry CALL is the push and the jump, with none it is the raise of StackOverflow. -/
theorem callPushesOrOverflows : Obligations.CallPushesOrOverflows := fun nnn s => by
  constructor
  · intro h
    refine ⟨_, exec_call_of_lt nnn h, zext16_toNat nnn, sp_succ_toNat h, ?_, changesOnly_setPc_stack s _ _ _⟩
    intro k _
    simp only [State.setPc_stack, Vector.getElem?_set, eq_comm (a := k)]
  · intro h
    exact ⟨_, _, exec_call_of_full nnn h, wordNNN_toNat 0x2 nnn, s.raised_raise ..⟩

/-- Settles O32: with an address held RET is the pop into PC, with none it is the raise of StackUnderflow. -/
theorem retPopsOrUnderflows : Obligations.RetPopsOrUnderflows := fun s => by
  constructor
  · intro h1 h16
    exact ⟨_, exec_ret_of_held h1 h16, sp_pred_toNat h1, Vector.getElem?_eq_getElem _, rfl,
      changesOnly_setPc_stack s _ _ _⟩
  · intro h
    exact ⟨_, exec_ret_of_empty h, s.raised_raise ..⟩

end Sys2Proof.Machine
end

section
/-!
PROOFS. The no-op, the clear, the jumps and the skips of families 0 to 5, 9 and B (R100, R101, R103, R105 to R108, R141).
-/

namespace Sys2Proof.Machine

/-- A word of family 0 that is not CLS or RET is the no-op (R85, R87). -/
theorem decodeWord_of_sys {w : Word} (hlt : w.toNat < 0x1000) (hcls : w.toNat ≠ 0x00E0) (hret : w.toNat ≠ 0x00EE) :
    decodeWord w = .ok (.sys (fieldNNN w)) := by
  have hfam : (fieldFamily w).toNat = 0 := by rw [fieldFamily_toNat]; omega
  have hfam0 : decodeWord w = decodeFamily0 w := by simp only [decodeWord, hfam]
  rw [hfam0, decodeFamily0, if_neg (BitVec.toNat_ne.mpr hcls), if_neg (BitVec.toNat_ne.mpr hret)]

/-- Step (f) follows every instruction that has not halted the core (R211). -/
theorem State.afterInstr_of_ne_halt {s : State} (h : s.mode ≠ .halt) : s.afterInstr = s.updateTimers :=
  (s.afterInstr_cases.resolve_left fun ⟨hhalt, _⟩ => h hhalt).2

/-- Settles O30: the iteration of a no-op is its fetch advance and, as it halts nothing, step (f). -/
theorem sysDoesNothing : Obligations.SysDoesNothing := by
  refine ⟨fun nnn s => rfl, fun s hrun hlt hcls hret => ?_⟩
  have ⟨_, hmode, _⟩ := hrun
  have hgo : s.sampled.advance.mode ≠ .halt := by simp [hmode]
  calc step s = finishIteration (exec (.sys (fieldNNN s.fetch)) s.sampled.advance) :=
        step_of_running hrun (decodeWord_of_sys hlt hcls hret)
    _ = .next s.sampled.advance.afterInstr := rfl
    _ = .next (s.sampled.setPc (s.pc + 2)).updateTimers := congrArg _ (State.afterInstr_of_ne_halt hgo)

/-- Settles O31: every cell of `fbClear` is 0, and the screen and its events are all that CLS writes. -/
theorem clsClearsTheScreen : Obligations.ClsClearsTheScreen := fun s =>
  ⟨_, rfl, fbGet_fbClear, rfl, changesOnly_setFb_emit s _ _⟩

/-- The target of BNNN does not wrap: NNN + V0 is at most 0x10FE (R141). -/
theorem zext16_add_zeroExtend_toNat (nnn : BitVec 12) (b : Byte) :
    (zext16 nnn + b.zeroExtend 16).toNat = nnn.toNat + b.toNat := by
  have := nnn.isLt
  have := b.isLt
  rw [BitVec.toNat_add, zext16_toNat, BitVec.toNat_setWidth]
  omega

/-- Settles O33: each jump is one write of PC, with its target as a number. -/
theorem jumpsGoToTheirTargets : Obligations.JumpsGoToTheirTargets := fun nnn s =>
  ⟨⟨_, rfl, zext16_toNat nnn, changesOnly_setPc s _⟩,
   ⟨_, rfl, zext16_add_zeroExtend_toNat nnn (s.getV 0), changesOnly_setPc s _⟩⟩

/-! ### The skips -/

variable (s : State)

theorem State.skipIf_pc_toNat (c : Bool) :
    (s.skipIf c).pc.toNat = if c = true then (s.pc.toNat + 2) % 65536 else s.pc.toNat := by
  cases c with
  | false => rfl
  | true => exact BitVec.toNat_add s.pc 2

theorem State.skipIf_eq_pc_toNat (a b : Byte) :
    (s.skipIf (decide (a = b))).pc.toNat =
      if a.toNat = b.toNat then (s.pc.toNat + 2) % 65536 else s.pc.toNat := by
  simp only [State.skipIf_pc_toNat, decide_eq_true_eq, BitVec.toNat_inj]

theorem State.skipIf_ne_pc_toNat (a b : Byte) :
    (s.skipIf (decide (a ≠ b))).pc.toNat =
      if a.toNat = b.toNat then s.pc.toNat else (s.pc.toNat + 2) % 65536 := by
  simp only [State.skipIf_pc_toNat, decide_eq_true_eq, ne_eq, ite_not, BitVec.toNat_inj]

/-- Settles O36: each is a skip on the comparison of VX with NN. -/
theorem skipsOnImmediate : Obligations.SkipsOnImmediate := fun x nn s =>
  ⟨⟨_, rfl, changesOnly_setPc s _, s.skipIf_eq_pc_toNat (s.getV x) nn⟩,
   ⟨_, rfl, changesOnly_setPc s _, s.skipIf_ne_pc_toNat (s.getV x) nn⟩⟩

/-- Settles O37: each is a skip on the comparison of VX with VY, and the low nibble is not read. -/
theorem skipsOnRegisters : Obligations.SkipsOnRegisters := fun x y _ s =>
  ⟨⟨_, rfl, changesOnly_setPc s _, s.skipIf_eq_pc_toNat (s.getV x) (s.getV y)⟩,
   ⟨_, rfl, changesOnly_setPc s _, s.skipIf_ne_pc_toNat (s.getV x) (s.getV y)⟩⟩

end Sys2Proof.Machine
end

section
/-!
PROOFS. The register writes: their frame, and what a write of one register and a write of VF and a register leave
(R20, R21, R125).
-/

namespace Sys2Proof.Machine

variable (s : State)

/-- The frame of every operation that replaces the register file and nothing else (`setV`, `flagThenResult`,
`loadBlock`). -/
theorem changesOnly_regs (v : Vector Byte 16) : ChangesOnly s { s with v := v } [.regs] := by
  intro p hp
  have same := samePart_refl s p
  cases p with
  | regs => exact absurd List.mem_cons_self hp
  | _ => exact same

theorem ofNat_eq_of_toNat_eq {b : Byte} {n : Nat} (h : b.toNat = n) : BitVec.ofNat 8 n = b := by
  rw [← h, BitVec.ofNat_toNat, BitVec.setWidth_eq]

theorem State.oneResult_setV (x : RegNo) {b : Byte} {n : Nat} (h : b.toNat = n) : OneResult s (s.setV x b) x n := by
  refine ⟨fun q => ?_, changesOnly_regs s _⟩
  rw [State.setV_getV, ofNat_eq_of_toNat_eq h]

/-- A flag-producing operation is settled by its flag as a condition and its result as a number (R125). -/
theorem State.flagAndResult_flagThenResult (x : RegNo) {f b : Byte} {flag : Bool} {n : Nat}
    (hf : f = flagByte flag) (hb : b.toNat = n) : FlagAndResult s (s.flagThenResult x f b) x flag n := by
  refine ⟨fun q => ?_, changesOnly_regs s _⟩
  rw [State.flagThenResult_getV, ofNat_eq_of_toNat_eq hb, hf, flagByte]

/-- A register write whose byte is given bit by bit: its frame, the other registers, and the bits of the written one. -/
theorem State.setV_bits (x : RegNo) {b : Byte} {bit : Nat → Bool} (h : ∀ k, b.getLsbD k = bit k) :
    ChangesOnly s (s.setV x b) [.regs] ∧ (∀ q, q ≠ x → (s.setV x b).getV q = s.getV q) ∧
      ∀ k, ((s.setV x b).getV x).getLsbD k = bit k := by
  refine ⟨changesOnly_regs s _, fun q hq => ?_, fun k => ?_⟩
  · rw [State.setV_getV, if_neg hq]
  · rw [State.setV_getV, if_pos rfl, h]

end Sys2Proof.Machine
end

section
/-!
PROOFS. Families 6, 7 and 8 (R120 to R131): the flags as conditions and the results as numbers, then the instructions.
-/

namespace Sys2Proof.Machine

/-! ### Flags and results as numbers -/

theorem noBorrowFlag_eq (a b : Byte) : noBorrowFlag a b = flagByte (decide (b.toNat ≤ a.toNat)) := rfl

theorem shiftedOutLow_eq (a : Byte) : shiftedOutLow a = flagByte (decide (a.toNat % 2 = 1)) :=
  congrArg flagByte (Nat.testBit_zero a.toNat)

/-- Bit 7 of a byte is its most significant bit, so it is 1 from 128 on. -/
theorem shiftedOutHigh_eq (a : Byte) : shiftedOutHigh a = flagByte (decide (128 ≤ a.toNat)) :=
  congrArg flagByte ((BitVec.msb_eq_getLsbD_last a).symm.trans (BitVec.msb_eq_decide a))

/-- A difference modulo 256 borrows 256 exactly where the flag of R127 is 0. -/
theorem sub_toNat_eq_ite (a b : Byte) :
    (a - b).toNat = if b.toNat ≤ a.toNat then a.toNat - b.toNat else a.toNat + 256 - b.toNat := by
  have ha := a.isLt
  have hb := b.isLt
  rw [BitVec.toNat_sub]
  split <;> omega

theorem ushiftRight_one_toNat (a : Byte) : (a >>> 1).toNat = a.toNat / 2 := by
  rw [BitVec.toNat_ushiftRight, Nat.shiftRight_one]

theorem shiftLeft_one_toNat (a : Byte) : (a <<< 1).toNat = 2 * a.toNat % 256 := by
  rw [BitVec.toNat_shiftLeft, Nat.shiftLeft_eq, pow_one, Nat.mul_comm]

/-! ### The instructions -/

/-- Settles O40: ADD writes the carry as a flag and the sum as a result. -/
theorem addWithCarryFlag : Obligations.AddWithCarryFlag := fun x y s =>
  ⟨_, rfl, s.flagAndResult_flagThenResult x (carryFlag_eq _ (s.getV y)) (sumByte_toNat (s.getV x) _)⟩

/-- Settles O41: SUB and SUBN are one subtraction, with the operands exchanged. -/
theorem subtractWithBorrowFlag : Obligations.SubtractWithBorrowFlag := fun x y s =>
  have difference (a b : Byte) := s.flagAndResult_flagThenResult x (noBorrowFlag_eq a b) (sub_toNat_eq_ite a b)
  ⟨⟨_, rfl, difference (s.getV x) (s.getV y)⟩, ⟨_, rfl, difference (s.getV y) (s.getV x)⟩⟩

/-- Settles O42: each shift writes the bit shifted out as a flag and the shifted VX as a result; VY is not read. -/
theorem shiftsWithFlag : Obligations.ShiftsWithFlag := fun x _ s =>
  ⟨⟨_, rfl, s.flagAndResult_flagThenResult x (shiftedOutLow_eq (s.getV x)) (ushiftRight_one_toNat (s.getV x))⟩,
   ⟨_, rfl, s.flagAndResult_flagThenResult x (shiftedOutHigh_eq (s.getV x)) (shiftLeft_one_toNat (s.getV x))⟩⟩

/-- Settles O38: each is one write of VX, of NN, of the sum modulo 256, or of VY. -/
theorem loadsAndAddImmediate : Obligations.LoadsAndAddImmediate := fun x _ nn s =>
  ⟨⟨_, rfl, s.oneResult_setV x rfl⟩,
   ⟨_, rfl, s.oneResult_setV x (BitVec.toNat_add (s.getV x) nn)⟩,
   ⟨_, rfl, s.oneResult_setV x rfl⟩⟩

/-- Settles O39: each is one write of VX, whose bits are those of the bitwise operation. -/
theorem logicOperations : Obligations.LogicOperations := fun x _ s =>
  ⟨⟨_, rfl, s.setV_bits x fun _ => BitVec.getLsbD_or⟩,
   ⟨_, rfl, s.setV_bits x fun _ => BitVec.getLsbD_and⟩,
   ⟨_, rfl, s.setV_bits x fun _ => BitVec.getLsbD_xor⟩⟩

end Sys2Proof.Machine
end

section
/-!
PROOFS. The writes of I (R140, R174, R175): the frame of a write of I, and the sum and the glyph address as numbers.
-/

namespace Sys2Proof.Machine

theorem changesOnly_setI (s : State) (w : Word) : ChangesOnly s (s.setI w) [.index] := by
  intro p hp
  have same := samePart_refl s p
  cases p with
  | index => exact absurd List.mem_cons_self hp
  | _ => exact same

/-- The sum of FX1E, where the byte itself fits in 16 bits (R174). -/
theorem add_zeroExtend_toNat (i : Word) (b : Byte) :
    (i + b.zeroExtend 16).toNat = (i.toNat + b.toNat) % 65536 := by
  rw [BitVec.toNat_add, BitVec.toNat_setWidth, Nat.add_mod_mod]

/-- The address of FX29: the product 5 * d fits in 16 bits, the sum is reduced to them (R175). -/
theorem glyphAddress_toNat (base : Word) (b : Byte) :
    (base + 5 * (lowNibble b).zeroExtend 16).toNat = (base.toNat + 5 * (b.toNat % 16)) % 65536 := by
  have five : (5 : Word).toNat = 5 := rfl
  rw [BitVec.toNat_add, BitVec.toNat_mul, BitVec.toNat_setWidth, lowNibble_toNat, five]
  omega

/-- Within the bounds of R5 the whole font lies below 0x10000, so that the address of a glyph is not reduced. -/
theorem glyphAddress_lt_of_wf {c : Config} (h : c.wf = true) (b : Byte) :
    c.fontBase.toNat + 5 * (b.toNat % 16) < 65536 := by
  rw [Config.wf, Bool.and_eq_true, decide_eq_true_iff, decide_eq_true_iff] at h
  obtain ⟨_, hbase⟩ := h
  omega

/-- Settles O43: each is one write of I, with its value as a number. -/
theorem indexWrites : Obligations.IndexWrites := fun nnn x s => by
  have glyph := glyphAddress_toNat s.cfg.fontBase (s.getV x)
  refine ⟨⟨_, rfl, zext16_toNat nnn, changesOnly_setI s _⟩,
    ⟨_, rfl, add_zeroExtend_toNat s.i (s.getV x), changesOnly_setI s _⟩,
    ⟨_, rfl, changesOnly_setI s _, fun hwf => ?_, glyph⟩⟩
  exact glyph.trans (Nat.mod_eq_of_lt (glyphAddress_lt_of_wf hwf _))

end Sys2Proof.Machine
end

section
/-!
PROOFS. The random instruction (R142): the random byte under its mask, and the byte an iteration uses.
-/

namespace Sys2Proof.Machine

/-- An iteration executes what the fetched word decodes to. -/
theorem State.decodeWord_of_current {s : State} {i : Instr} (h : s.current = some i) : decodeWord s.fetch = .ok i := by
  unfold State.current at h
  split at h
  · next hd => rw [hd, Option.some.inj h]
  · cases h

theorem and_and_not_right (b nn : Byte) : b &&& nn &&& ~~~nn = 0 := by
  rw [BitVec.and_assoc, BitVec.and_not_self]
  exact BitVec.and_zero

theorem and_toNat_le_right (b nn : Byte) : (b &&& nn).toNat ≤ nn.toNat := by
  rw [BitVec.toNat_and]
  exact Nat.and_le_right

theorem State.setV_getV_same (s : State) (x : RegNo) (b : Byte) : (s.setV x b).getV x = b := by
  rw [State.setV_getV, if_pos rfl]

/-- Step (f) writes timers only. -/
theorem State.afterInstr_getV (s : State) (q : RegNo) : s.afterInstr.getV q = s.getV q := by
  obtain ⟨_, h⟩ | ⟨_, h⟩ := s.afterInstr_cases
  · rw [h]
  · rw [h]; rfl

/-- Settles O44: RND is one write of VX, of the random byte AND NN; in a step the byte is the sampled one, and neither
the advance nor the timers change VX or the byte. -/
theorem randomByteIsMasked : Obligations.RandomByteIsMasked := fun x nn s => by
  constructor
  · obtain ⟨frame, others, bits⟩ := s.setV_bits x fun _ => BitVec.getLsbD_and (x := s.rnd) (y := nn)
    refine ⟨_, rfl, frame, others, bits, ?_, ?_⟩
    · rw [State.setV_getV_same]
      exact and_and_not_right s.rnd nn
    · rw [State.setV_getV_same]
      exact and_toNat_le_right s.rnd nn
  · intro hrun hcur
    have hstep : step s = .next (s.sampled.advance.setV x (s.sampled.advance.rnd &&& nn)).afterInstr :=
      step_of_running hrun (State.decodeWord_of_current hcur)
    refine ⟨_, hstep, ?_⟩
    rw [State.afterInstr_getV, State.setV_getV_same]
    rfl

end Sys2Proof.Machine
end

section
/-!
PROOFS. The draw (R150 to R152): its cells are the covered cells, and what it leaves in them, in VF and in the events.
-/

namespace Sys2Proof.Machine

variable (s : State) (x0 y0 : Byte) {n : Nat}

/-! ### The cells of a draw are those of the claims -/

theorem mem_drawCells_iff_spriteCovers (cx : BitVec 6) (cy : BitVec 5) :
    (cx, cy) ∈ drawCells s x0 y0 n ↔ SpriteCovers s x0 y0 n cx cy := mem_drawCells s x0 y0 n cx cy

theorem exists_mem_drawCells_lit_iff :
    (∃ p ∈ drawCells s x0 y0 n, fbGet s.fb p.1 p.2 = true) ↔
      ∃ cx cy, SpriteCovers s x0 y0 n cx cy ∧ fbGet s.fb cx cy = true := by
  simp only [Prod.exists, mem_drawCells_iff_spriteCovers]

theorem ofNat_mod_two_pow (w k : Nat) : BitVec.ofNat w (k % 2 ^ w) = BitVec.ofNat w k :=
  BitVec.eq_of_toNat_eq (Nat.mod_mod k (2 ^ w))

/-- The loop takes each axis modulo the grid by the width of a coordinate (R150). -/
theorem spriteOrder_eq_drawCells : spriteOrder s x0 y0 n = drawCells s x0 y0 n := by
  have column (k : Nat) : BitVec.ofNat 6 (k % 64) = BitVec.ofNat 6 k := ofNat_mod_two_pow 6 k
  have row (k : Nat) : BitVec.ofNat 5 (k % 32) = BitVec.ofNat 5 k := ofNat_mod_two_pow 5 k
  simp only [spriteOrder, drawCells, spriteCells, column, row]

/-! ### What a draw leaves, where no row is drawn over another -/

theorem State.drawRows_fb_of_covers (hn : n ≤ 32) {cx : BitVec 6} {cy : BitVec 5}
    (h : SpriteCovers s x0 y0 n cx cy) : fbGet (s.drawRows x0 y0 n).fb cx cy = !fbGet s.fb cx cy := by
  have hmem := (mem_drawCells_iff_spriteCovers s x0 y0 cx cy).mpr h
  rw [State.drawRows_eq, foldl_togglePixel_fb_nodup _ s (nodup_drawCells s x0 y0 n hn), decide_eq_true hmem,
    Bool.xor_true]

theorem State.drawRows_fb_of_not_covers (hn : n ≤ 32) {cx : BitVec 6} {cy : BitVec 5}
    (h : ¬ SpriteCovers s x0 y0 n cx cy) : fbGet (s.drawRows x0 y0 n).fb cx cy = fbGet s.fb cx cy := by
  have hmem := mt (mem_drawCells_iff_spriteCovers s x0 y0 cx cy).mp h
  rw [State.drawRows_eq, foldl_togglePixel_fb_nodup _ s (nodup_drawCells s x0 y0 n hn), decide_eq_false hmem,
    Bool.xor_false]

theorem State.drawRows_vf_of_collision (hn : n ≤ 32)
    (h : ∃ cx cy, SpriteCovers s x0 y0 n cx cy ∧ fbGet s.fb cx cy = true) :
    (s.drawRows x0 y0 n).getV vf = 0x01 := by
  have hlit := (exists_mem_drawCells_lit_iff s x0 y0).mpr h
  rw [State.drawRows_eq, foldl_togglePixel_getV _ s (nodup_drawCells s x0 y0 n hn), if_pos ⟨rfl, hlit⟩]

/-- The rows write no register but VF, and VF only where a covered cell was lit. -/
theorem State.drawRows_getV_of_unlit (hn : n ≤ 32) {q : RegNo}
    (h : q = vf → ∀ cx cy, SpriteCovers s x0 y0 n cx cy → fbGet s.fb cx cy = false) :
    (s.drawRows x0 y0 n).getV q = s.getV q := by
  rw [State.drawRows_eq, foldl_togglePixel_getV _ s (nodup_drawCells s x0 y0 n hn), if_neg]
  rintro ⟨hq, hlit⟩
  obtain ⟨cx, cy, hcov, hlit⟩ := (exists_mem_drawCells_lit_iff s x0 y0).mp hlit
  exact Bool.false_ne_true ((h hq cx cy hcov).symm.trans hlit)

theorem State.drawRows_events (hn : n ≤ 32) :
    (s.drawRows x0 y0 n).events =
      s.events ++ (spriteOrder s x0 y0 n).map fun c =>
        if fbGet s.fb c.1 c.2 = true then .pixelClear c.1 c.2 else .pixelSet c.1 c.2 := by
  rw [State.drawRows_eq, foldl_togglePixel_events _ s (nodup_drawCells s x0 y0 n hn), spriteOrder_eq_drawCells]

theorem changesOnly_regs_display (v : Vector Byte 16) (fb : Framebuffer) (es : List Event) :
    ChangesOnly s { s with v := v, fb := fb, events := es } [.regs, .display] := by
  intro p hp
  have same := samePart_refl s p
  cases p with
  | regs => exact absurd List.mem_cons_self hp
  | display => exact absurd (List.mem_cons_of_mem _ List.mem_cons_self) hp
  | _ => exact same

/-! ### The instruction -/

/-- A sprite has at most 15 rows, so that the 32 rows of the screen hold it without overlap (R150). -/
theorem spriteRows_le_screen (n : BitVec 4) : n.toNat ≤ 32 := n.isLt.le.trans (by decide)

/-- The frame of a register write and a draw after it. -/
theorem changesOnly_setV_drawRows (r : RegNo) (b : Byte) :
    ChangesOnly s ((s.setV r b).drawRows x0 y0 n) [.regs, .display] := by
  rw [State.drawRows_frame]
  exact changesOnly_regs_display s _ _ _

/-- Settles O45: clearing VF changes neither the screen nor what the sprite covers, so the rows that DXYN draws after it
invert the cells of `s`; without a collision VF stays clear (R151). -/
theorem drawInvertsTheSpritesCells : Obligations.DrawInvertsTheSpritesCells := fun x y n s => by
  have hn := spriteRows_le_screen n
  refine ⟨(s.setV vf 0x00).drawRows (s.getV x) (s.getV y) n.toNat, rfl, ?covered, ?uncovered, ?collision, ?noCollision,
    ?events, ?registers, changesOnly_setV_drawRows s _ _ vf 0x00⟩
  case covered => exact fun _ _ => (s.setV vf 0x00).drawRows_fb_of_covers _ _ hn
  case uncovered => exact fun _ _ => (s.setV vf 0x00).drawRows_fb_of_not_covers _ _ hn
  case collision => exact (s.setV vf 0x00).drawRows_vf_of_collision _ _ hn
  case noCollision =>
    intro hunlit
    exact ((s.setV vf 0x00).drawRows_getV_of_unlit _ _ hn fun _ => hunlit).trans (s.setV_getV_same vf 0x00)
  case events => exact (s.setV vf 0x00).drawRows_events _ _ hn
  case registers =>
    intro q hq
    rw [(s.setV vf 0x00).drawRows_getV_of_unlit _ _ hn (absurd · hq), State.setV_getV, if_neg hq]

end Sys2Proof.Machine
end

section
/-!
PROOFS. The key skips (R160 to R162): the key that a register selects, and the skip on its negation.
-/

namespace Sys2Proof.Machine

variable (s : State)

/-- The latch is tested at the low four bits of VX, the upper four being ignored (R162). -/
theorem State.keyPressed_eq_getLsbD_mod (x : RegNo) :
    s.keyPressed x = s.keys.getLsbD ((s.getV x).toNat % 16) := by
  rw [State.keyPressed, lowNibble_toNat]

theorem State.skipIf_not_pc_toNat (c : Bool) :
    (s.skipIf (!c)).pc.toNat = if c = true then s.pc.toNat else (s.pc.toNat + 2) % 65536 := by
  cases c with
  | false => exact s.skipIf_pc_toNat true
  | true => exact s.skipIf_pc_toNat false

/-- Settles O47: SKP is a skip on the key that VX selects, SKNP the skip on its negation. -/
theorem skipsOnKeys : Obligations.SkipsOnKeys := fun x s => by
  rw [← s.keyPressed_eq_getLsbD_mod x]
  exact ⟨⟨_, rfl, changesOnly_setPc s _, s.skipIf_pc_toNat (s.keyPressed x)⟩,
    ⟨_, rfl, changesOnly_setPc s _, s.skipIf_not_pc_toNat (s.keyPressed x)⟩⟩

end Sys2Proof.Machine
end

section
/-!
PROOFS. The timer instructions (R170, R172, R173): the frames of the two timer writes.
-/

namespace Sys2Proof.Machine

variable (s : State)

theorem changesOnly_setDT (tm : Timer) : ChangesOnly s (s.setDT tm) [.delayTimer] := by
  intro p hp
  have same := samePart_refl s p
  cases p with
  | delayTimer => exact absurd List.mem_cons_self hp
  | _ => exact same

theorem changesOnly_setST (tm : Timer) : ChangesOnly s (s.setST tm) [.soundTimer] := by
  intro p hp
  have same := samePart_refl s p
  cases p with
  | soundTimer => exact absurd List.mem_cons_self hp
  | _ => exact same

/-- Outside HALT the tone follows the value that the sound timer is set to (R196). -/
theorem State.setST_tone_iff_of_ne_halt (b : Byte) (t : Nat) (h : s.mode ≠ .halt) :
    (s.setST (timerSet b t)).tone = true ↔ b.toNat ≠ 0 :=
  (s.setST (timerSet b t)).tone_eq_true_iff.trans (and_iff_left h)

/-- Settles O48: FX07 is one write of VX, FX15 and FX18 are each one set of their timer. -/
theorem timerInstructions : Obligations.TimerInstructions := fun x s =>
  ⟨⟨_, rfl, s.oneResult_setV x rfl⟩,
   ⟨_, rfl, rfl, rfl, changesOnly_setDT s _⟩,
   ⟨_, rfl, rfl, rfl, s.setST_tone_iff_of_ne_halt (s.getV x) s.tnow, changesOnly_setST s _⟩⟩

end Sys2Proof.Machine
end

section
/-!
PROOFS. BCD and the block transfers (R176, R178, R179): the three stored digits, and the blocks of X + 1 bytes.
-/

namespace Sys2Proof.Machine

variable (s : State)

/-! ### BCD -/

theorem State.memWrite_memRead_same (a : Nat) (b : Byte) : (s.memWrite a b).memRead a = b := by
  rw [State.memWrite_memRead, if_pos rfl]

theorem State.memWrite_memRead_of_ne {a n : Nat} (b : Byte) (h : n % 4096 ≠ a % 4096) :
    (s.memWrite a b).memRead n = s.memRead n := by
  rw [State.memWrite_memRead, if_neg h]

/-- Three bytes stored at consecutive addresses do not overwrite one another, even over the end of memory. -/
theorem State.memWrite_three_memRead (a : Nat) (b0 b1 b2 : Byte) :
    let t := ((s.memWrite a b0).memWrite (a + 1) b1).memWrite (a + 2) b2
    t.memRead a = b0 ∧ t.memRead (a + 1) = b1 ∧ t.memRead (a + 2) = b2 ∧
      ∀ n, (∀ k, k < 3 → n % 4096 ≠ (a + k) % 4096) → t.memRead n = s.memRead n := by
  have h01 : a % 4096 ≠ (a + 1) % 4096 := by omega
  have h02 : a % 4096 ≠ (a + 2) % 4096 := by omega
  have h12 : (a + 1) % 4096 ≠ (a + 2) % 4096 := by omega
  refine ⟨?_, ?_, State.memWrite_memRead_same .., fun n hn => ?_⟩
  · rw [State.memWrite_memRead_of_ne _ _ h02, State.memWrite_memRead_of_ne _ _ h01, State.memWrite_memRead_same]
  · rw [State.memWrite_memRead_of_ne _ _ h12, State.memWrite_memRead_same]
  · have h0 : n % 4096 ≠ a % 4096 := hn 0 (by decide)
    have h1 : n % 4096 ≠ (a + 1) % 4096 := hn 1 (by decide)
    have h2 : n % 4096 ≠ (a + 2) % 4096 := hn 2 (by decide)
    rw [State.memWrite_memRead_of_ne _ _ h2, State.memWrite_memRead_of_ne _ _ h1, State.memWrite_memRead_of_ne _ _ h0]

/-- The hundreds of a byte are at most 2, so that they are one digit. -/
theorem bcdDigit_hundreds_toNat (b : Byte) : (bcdDigit b 100).toNat = b.toNat / 100 := by
  have := b.isLt
  rw [bcdDigit_toNat]
  omega

theorem bcdDigit_ones_toNat (b : Byte) : (bcdDigit b 1).toNat = b.toNat % 10 := by
  rw [bcdDigit_toNat, Nat.div_one]

/-- Settles O51: FX33 is three stores at consecutive addresses, each of one decimal digit. -/
theorem bcdStoresThreeDigits : Obligations.BcdStoresThreeDigits := fun x s => by
  obtain ⟨hundreds, tens, ones, others⟩ :=
    s.memWrite_three_memRead s.i.toNat (bcdDigit (s.getV x) 100) (bcdDigit (s.getV x) 10) (bcdDigit (s.getV x) 1)
  exact ⟨_, rfl, (congrArg BitVec.toNat hundreds).trans (bcdDigit_hundreds_toNat _),
    (congrArg BitVec.toNat tens).trans (bcdDigit_toNat _ 10),
    (congrArg BitVec.toNat ones).trans (bcdDigit_ones_toNat _), others, changesOnly_memory s _⟩

/-! ### The blocks -/

theorem changesOnly_storeBlock (n : Nat) : ChangesOnly s (s.storeBlock n) [.memory] := by
  rw [State.storeBlock_eq]
  exact changesOnly_memory s _

theorem changesOnly_loadBlock (n : Nat) : ChangesOnly s (s.loadBlock n) [.regs] := by
  rw [State.loadBlock_eq]
  exact changesOnly_regs s _

theorem State.storeBlock_memRead_of_lt {n : Nat} (hn : n ≤ 16) {r : RegNo} (hr : r.toNat < n) :
    (s.storeBlock n).memRead (s.i.toNat + r.toNat) = s.getV r := by
  obtain ⟨stored, _⟩ := s.storeBlock_memRead n 0 hn
  rw [stored r.toNat hr, BitVec.ofNat_toNat, BitVec.setWidth_eq]

theorem State.storeBlock_memRead_of_outside {n a : Nat} (hn : n ≤ 16)
    (h : ∀ k, k < n → a % 4096 ≠ (s.i.toNat + k) % 4096) : (s.storeBlock n).memRead a = s.memRead a := by
  obtain ⟨_, outside⟩ := s.storeBlock_memRead n a hn
  exact outside h

/-- Settles O52: FX55 is the block store of X + 1 registers, at most the sixteen there are. -/
theorem blockStore : Obligations.BlockStore := fun x s =>
  ⟨_, rfl, fun _ hr => s.storeBlock_memRead_of_lt x.isLt (Nat.lt_succ_of_le hr),
    fun _ h => s.storeBlock_memRead_of_outside x.isLt fun k hk => h k (Nat.le_of_lt_succ hk),
    changesOnly_storeBlock s _⟩

/-- Settles O53: FX65 is the block load of X + 1 registers, at most the sixteen there are. -/
theorem blockLoad : Obligations.BlockLoad := fun x s => by
  refine ⟨_, rfl, fun r => ?_, changesOnly_loadBlock s _⟩
  rw [s.loadBlock_getV _ r x.isLt]
  simp only [Nat.lt_succ_iff]

end Sys2Proof.Machine
end

section
/-!
PROOFS. The timer update (R192): the clauses by the time elapsed since the baseline, from those by the time itself.
-/

namespace Sys2Proof.Machine

theorem val_pred_toNat_add_one {v : Byte} (h : v ≠ 0) : (v - 1).toNat + 1 = v.toNat := by
  rw [val_pred_toNat h, Nat.sub_one_add_one (BitVec.toNat_ne.mp h)]

/-- Settles O26: at least T60 elapsed is a time from the baseline plus T60 on, and less elapsed is one before it. -/
theorem timerUpdate_spec : Obligations.TimerUpdate := fun t60 t m hbase => by
  constructor
  · intro hv helapsed
    have hdue : m.base + t60 ≤ t := Nat.add_le_of_le_sub' (hbase hv) helapsed
    rw [timerUpdate_fires hv hdue]
    exact ⟨val_pred_toNat_add_one hv, rfl⟩
  · intro hidle
    exact timerUpdate_idle (hidle.imp_right lt_add_of_tsub_lt_left)

end Sys2Proof.Machine
end

section
/-!
PROOFS. The iterations that fetch nothing (R214, R218, R222): a closed display, a halted core, and a key wait.
-/

namespace Sys2Proof.Machine

variable (s : State)

/-! ### A closed display, and HALT -/

/-- Settles O9: the closed iteration is the raise of DisplayClosed on the sampled state, whose PC is still that of `s`. -/
theorem closedDisplayEndsTheRun : Obligations.ClosedDisplayEndsTheRun := fun s hreleased hmode hclosed =>
  ⟨_, step_of_closed hreleased hmode hclosed, s.sampled.raised_raise .displayClosed 0x0000 s.pc⟩

/-- Settles O10: of an iteration in HALT only the count of its sample is left. -/
theorem haltIsAbsorbing : Obligations.HaltIsAbsorbing := fun _ hmode hreleased => step_of_halt hreleased hmode

/-! ### The key wait -/

/-- Receiving a key writes the register file and MODE, and nothing else. -/
theorem State.receiveKey_frame (kd : Option KeyIndex) :
    s.receiveKey kd = { s with v := (s.receiveKey kd).v, mode := (s.receiveKey kd).mode } := by
  cases kd with
  | none => rfl
  | some k => rfl

theorem State.receiveKey_some_getV (k : KeyIndex) (q : RegNo) :
    (s.receiveKey (some k)).getV q = if q = s.waitX then BitVec.ofNat 8 k.toNat else s.getV q := by
  rw [BitVec.ofNat_toNat]
  exact s.setV_getV s.waitX q (zext8 k)

/-- The frame of an iteration of a key wait: its sample, the key it receives and the timer updates. -/
theorem changesOnly_receiveKey_updateTimers (kd : Option KeyIndex) :
    ChangesOnly s (s.sampled.receiveKey kd).updateTimers
      [.regs, .runState, .delayTimer, .soundTimer, .surroundings] := by
  rw [State.receiveKey_frame]
  intro p hp
  have same := samePart_refl s p
  cases p with
  | pc | index | stack | display | memory => exact same
  | regs | runState | delayTimer | soundTimer | surroundings => exact absurd (by decide) hp

/-- Settles O50: the event alone decides the register and MODE; the rest of the iteration is the same with or without
one, by `State.receiveKey_frame`. -/
theorem keyWaitResumesOnTheEvent : Obligations.KeyWaitResumesOnTheEvent := fun s hwait => by
  have ⟨_, hmode, _⟩ := hwait
  refine ⟨_, step_of_waiting hwait, ?event, ?noEvent, ?_, ?_, ?_, ?_, ?_, changesOnly_receiveKey_updateTimers s _⟩
  case event =>
    intro k hk
    rw [hk]
    exact ⟨rfl, s.sampled.receiveKey_some_getV k⟩
  case noEvent =>
    intro hk
    rw [hk]
    exact ⟨hmode, fun _ => rfl⟩
  all_goals
    rw [State.receiveKey_frame]
    rfl

end Sys2Proof.Machine
end

section
/-!
PROOFS. The encoder and the decoder undo each other (R84, R85): a word of a format read back field by field, and a word
put together again from the fields that its family reads.
-/

namespace Sys2Proof

/-- What the decoder makes of two bytes is what it makes of their word. -/
theorem decode_pair_ok_iff {hi lo : Byte} {i : Instr} :
    decode [hi, lo] = .ok (i, []) ↔ decodeWord (wordOfBytes hi lo) = .ok i := by
  rw [decode]
  cases decodeWord (wordOfBytes hi lo) with
  | error r => exact iff_of_false nofun nofun
  | ok j => simp [Except.map]

/-- The two words that a SYS must avoid are those the decoder matches whole (R85). -/
theorem decodeWord_wordNNN_zero {nnn : BitVec 12} (hwf : (Instr.sys nnn).wf = true) :
    decodeWord (wordNNN 0x0 nnn) = .ok (.sys nnn) := by
  have hne : nnn.toNat ≠ 0x0E0 ∧ nnn.toNat ≠ 0x0EE := by simpa [Instr.wf, BitVec.toNat_eq] using hwf
  have hlt := nnn.isLt
  have hword : (wordNNN 0x0 nnn).toNat = nnn.toNat := by rw [wordNNN_toNat]; simp
  rw [Machine.decodeWord_of_sys (by omega) (by omega) (by omega), fieldNNN_wordNNN]

/-- In every other format the decoder finds the family, then the sub-opcode, then the operands. -/
theorem decodeWord_encode {i : Instr} (hwf : i.wf = true) : decodeWord (encode i) = .ok i := by
  cases i with
  | sys nnn => exact decodeWord_wordNNN_zero hwf
  | cls | ret => rfl
  | jp | call | ldI | jpV0 => simp [encode, decodeWord]
  | seImm | sneImm | ldImm | addImm | rnd => simp [encode, decodeWord]
  | seReg | sneReg | drw => simp [encode, decodeWord]
  | ldReg | orReg | andReg | xorReg | addReg | subReg | shr | subnReg | shl =>
    simp [encode, decodeWord, decodeFamily8]
  | skp | sknp => simp [encode, decodeWord, decodeFamilyE]
  | ldVxDT | ldVxK | ldDTVx | ldSTVx | addI | ldF | ldB | storeRegs | loadRegs =>
    simp [encode, decodeWord, decodeFamilyF]

/-- Settles O1: `decodeWord_encode`, on the word and on its two bytes. -/
theorem decodeOfEncode : Obligations.DecodeOfEncode := fun i hwf => by
  have hword := decodeWord_encode hwf
  exact ⟨hword, decode_pair_ok_iff.mpr (by rwa [wordOfBytes_high_low])⟩

/-! ### A word from what it decodes to -/

section words
variable {w : Word} {f : BitVec 4}

theorem wordNNN_of_family (h : (fieldFamily w).toNat = f.toNat) : wordNNN f (fieldNNN w) = w := by
  rw [← BitVec.eq_of_toNat_eq h, wordNNN_fields]

theorem wordXNN_of_family {b : Byte} (h : (fieldFamily w).toNat = f.toNat) (hb : (fieldNN w).toNat = b.toNat) :
    wordXNN f (fieldX w) b = w := by
  rw [← BitVec.eq_of_toNat_eq h, ← BitVec.eq_of_toNat_eq hb, wordXNN_fields]

theorem wordXYN_of_family {n : BitVec 4} (h : (fieldFamily w).toNat = f.toNat) (hn : (fieldN w).toNat = n.toNat) :
    wordXYN f (fieldX w) (fieldY w) n = w := by
  rw [← BitVec.eq_of_toNat_eq h, ← BitVec.eq_of_toNat_eq hn, wordXYN_fields]

end words

/-- `i` is well-formed and `w` is its word. -/
def IsWordOf (w : Word) (i : Instr) : Prop := encode i = w ∧ i.wf = true

variable {w : Word} {i : Instr}

theorem isWordOf_of_decodeFamily0 (hf : (fieldFamily w).toNat = 0x0) (h : decodeFamily0 w = .ok i) :
    IsWordOf w i := by
  unfold decodeFamily0 at h
  split at h
  · next hcls => cases h; exact ⟨hcls.symm, rfl⟩
  · next hcls =>
    split at h
    · next hret => cases h; exact ⟨hret.symm, rfl⟩
    · next hret =>
      cases h
      have hword : wordNNN 0x0 (fieldNNN w) = w := wordNNN_of_family hf
      refine ⟨hword, ?_⟩
      have hE0 : fieldNNN w ≠ 0x0E0#12 := fun e => hcls (by rw [← hword, e]; rfl)
      have hEE : fieldNNN w ≠ 0x0EE#12 := fun e => hret (by rw [← hword, e]; rfl)
      rw [Instr.wf, decide_eq_true hE0, decide_eq_true hEE, Bool.and_true]

theorem isWordOf_of_decodeFamily8 (hf : (fieldFamily w).toNat = 0x8) (h : decodeFamily8 w = .ok i) :
    IsWordOf w i := by
  unfold decodeFamily8 at h
  split at h
  case h_10 => cases h
  all_goals next hn => cases h; exact ⟨wordXYN_of_family hf hn, rfl⟩

theorem isWordOf_of_decodeFamilyE (hf : (fieldFamily w).toNat = 0xE) (h : decodeFamilyE w = .ok i) :
    IsWordOf w i := by
  unfold decodeFamilyE at h
  split at h
  case h_3 => cases h
  all_goals next hnn => cases h; exact ⟨wordXNN_of_family hf hnn, rfl⟩

theorem isWordOf_of_decodeFamilyF (hf : (fieldFamily w).toNat = 0xF) (h : decodeFamilyF w = .ok i) :
    IsWordOf w i := by
  unfold decodeFamilyF at h
  split at h
  case h_10 => cases h
  all_goals next hnn => cases h; exact ⟨wordXNN_of_family hf hnn, rfl⟩

/-- Settles O2: the families 0, 8, E and F by their own decoders, every other one by its format. -/
theorem encodeOfDecode : Obligations.EncodeOfDecode := fun w i h => by
  change IsWordOf w i
  have hlt := (fieldFamily w).isLt
  unfold decodeWord at h
  split at h
  case h_1 hf => exact isWordOf_of_decodeFamily0 hf h
  case h_9 hf => exact isWordOf_of_decodeFamily8 hf h
  case h_15 hf => exact isWordOf_of_decodeFamilyE hf h
  case h_16 =>
    -- Of the sixteen numbers of a family, 15 is the one that no other branch takes.
    have hf : (fieldFamily w).toNat = 0xF := by grind
    exact isWordOf_of_decodeFamilyF hf h
  case h_2 hf | h_3 hf | h_11 hf | h_12 hf => cases h; exact ⟨wordNNN_of_family hf, rfl⟩
  case h_4 hf | h_5 hf | h_7 hf | h_8 hf | h_13 hf => cases h; exact ⟨wordXNN_of_family hf rfl, rfl⟩
  case h_6 hf | h_10 hf | h_14 hf => cases h; exact ⟨wordXYN_of_family hf rfl, rfl⟩

/-- Settles O4: each word is decoded. -/
theorem wordsOfTheSpecDecode : Obligations.WordsOfTheSpecDecode := by
  unfold Obligations.WordsOfTheSpecDecode
  decide

end Sys2Proof
end

section
/-!
PROOFS. What an instruction can do, said once: the effect each kind of instruction has on a state that it answers from,
and from it the parts and the registers an instruction may write (R109, R21), and where one answers at all (R31).
-/

namespace Sys2Proof.Machine

variable {s t : State} {i : Instr}

/-! ### The effects -/

/-- What `t` can be where the instruction `i` answers `t` from `s`. Instructions that write one part alone stand
together; the others have an effect of their own. -/
inductive Effect (s : State) : Instr → State → Prop
  | nothing (nnn : BitVec 12) : Effect s (.sys nnn) s
  | regs {i : Instr} (v : Vector Byte 16) (hi : writtenParts i = [.regs]) : Effect s i { s with v := v }
  | pc {i : Instr} (a : Word) (hi : writtenParts i = [.pc]) : Effect s i (s.setPc a)
  | index {i : Instr} (a : Word) (hi : writtenParts i = [.index]) : Effect s i (s.setI a)
  | clear : Effect s .cls ((s.setFb fbClear).emit .clearAll)
  | pop (h1 : 1 ≤ s.sp.toNat) (h16 : s.sp.toNat ≤ 16) :
      Effect s .ret ({ s with sp := s.sp - 1 }.setPc s.stack[s.sp.toNat - 1])
  | underflow (h : s.sp.toNat = 0) : Effect s .ret (s.raise .stackUnderflow 0x00EE (s.pc - 2))
  | push (nnn : BitVec 12) (h : s.sp.toNat < 16) :
      Effect s (.call nnn)
        ({ s with stack := s.stack.set s.sp.toNat s.pc h, sp := s.sp + 1 }.setPc (zext16 nnn))
  | overflow (nnn : BitVec 12) (h : s.sp.toNat = 16) :
      Effect s (.call nnn) (s.raise .stackOverflow (wordNNN 0x2 nnn) (s.pc - 2))
  | draw (x y : RegNo) (n : BitVec 4) :
      Effect s (.drw x y n) ((s.setV vf 0x00).drawRows (s.getV x) (s.getV y) n.toNat)
  | wait (x : RegNo) : Effect s (.ldVxK x) (s.setWait .waitKey x)
  | delay (x : RegNo) : Effect s (.ldDTVx x) (s.setDT (timerSet (s.getV x) s.tnow))
  | sound (x : RegNo) : Effect s (.ldSTVx x) (s.setST (timerSet (s.getV x) s.tnow))
  | digits (x : RegNo) :
      Effect s (.ldB x) (((s.memWrite (s.indexed 0) (bcdDigit (s.getV x) 100)).memWrite (s.indexed 1)
        (bcdDigit (s.getV x) 10)).memWrite (s.indexed 2) (bcdDigit (s.getV x) 1))
  | block (x : RegNo) : Effect s (.storeRegs x) (s.storeBlock (x.toNat + 1))

theorem exec_ret_of_beyond (h : 16 < s.sp.toNat) : exec .ret s = .fault .spOutOfRange := by
  have hne : s.sp ≠ 0 := BitVec.toNat_ne.mpr (Nat.ne_of_gt (Nat.zero_lt_of_lt h))
  rw [exec, execRet, if_neg hne, State.pop_eq_none.mpr (.inr h)]

theorem exec_call_of_beyond (nnn : BitVec 12) (h : 16 < s.sp.toNat) :
    exec (.call nnn) s = .fault .spOutOfRange := by
  rw [exec, execCall, if_neg h.ne', State.push_eq_none.mpr h.le]

/-- An instruction answers with its effect, or it is a CALL or a RET on a stack level that does not exist. -/
theorem exec_effect_or_fault (i : Instr) (s : State) :
    (∃ t, exec i s = .next t ∧ Effect s i t) ∨
    (exec i s = .fault .spOutOfRange ∧ 16 < s.sp.toNat ∧ (i = .ret ∨ ∃ nnn, i = .call nnn)) := by
  cases i with
  | ret =>
    obtain h0 | h1 := Nat.eq_zero_or_pos s.sp.toNat
    · exact .inl ⟨_, exec_ret_of_empty h0, .underflow h0⟩
    · obtain h16 | hbeyond := le_or_gt s.sp.toNat 16
      · exact .inl ⟨_, exec_ret_of_held h1 h16, .pop h1 h16⟩
      · exact .inr ⟨exec_ret_of_beyond hbeyond, hbeyond, .inl rfl⟩
  | call nnn =>
    obtain hlt | hfull | hbeyond := Nat.lt_trichotomy s.sp.toNat 16
    · exact .inl ⟨_, exec_call_of_lt nnn hlt, .push nnn hlt⟩
    · exact .inl ⟨_, exec_call_of_full nnn hfull, .overflow nnn hfull⟩
    · exact .inr ⟨exec_call_of_beyond nnn hbeyond, hbeyond, .inr ⟨nnn, rfl⟩⟩
  | sys nnn => exact .inl ⟨_, rfl, .nothing nnn⟩
  | cls => exact .inl ⟨_, rfl, .clear⟩
  | drw x y n => exact .inl ⟨_, rfl, .draw x y n⟩
  | ldVxK x => exact .inl ⟨_, rfl, .wait x⟩
  | ldDTVx x => exact .inl ⟨_, rfl, .delay x⟩
  | ldSTVx x => exact .inl ⟨_, rfl, .sound x⟩
  | ldB x => exact .inl ⟨_, rfl, .digits x⟩
  | storeRegs x => exact .inl ⟨_, rfl, .block x⟩
  | loadRegs x => exact .inl ⟨_, rfl, State.loadBlock_eq s (x.toNat + 1) ▸ .regs _ rfl⟩
  | jp | jpV0 | seImm | sneImm | seReg | sneReg | skp | sknp => exact .inl ⟨_, rfl, .pc _ rfl⟩
  | ldI | addI | ldF => exact .inl ⟨_, rfl, .index _ rfl⟩
  | ldImm | addImm | ldReg | orReg | andReg | xorReg | addReg | subReg | shr | subnReg | shl | rnd | ldVxDT =>
    exact .inl ⟨_, rfl, .regs _ rfl⟩

theorem effect_of_exec (h : exec i s = .next t) : Effect s i t := by
  obtain ⟨u, hu, heffect⟩ | ⟨hfault, _⟩ := exec_effect_or_fault i s
  · cases hu.symm.trans h
    exact heffect
  · cases hfault.symm.trans h

/-- Settles O15: the other branch of `exec_effect_or_fault`; where it is not taken an instruction answers. -/
theorem onlyUnreachableStackPointersFault : Obligations.OnlyUnreachableStackPointersFault := fun i s => by
  obtain ⟨t, ht, _⟩ | ⟨hfault, hbeyond⟩ := exec_effect_or_fault i s
  · refine ⟨⟨fun hfault => (nomatch ht.symm.trans hfault), ?_⟩, fun r hr => nomatch ht.symm.trans hr⟩
    rintro ⟨hsp, rfl | ⟨nnn, rfl⟩⟩
    · exact exec_ret_of_beyond hsp
    · exact exec_call_of_beyond nnn hsp
  · exact ⟨iff_of_true hfault hbeyond, fun r hr => nomatch hfault.symm.trans hr⟩

/-! ### The parts and the registers an instruction may write -/

theorem ChangesOnly.mono {ps qs : List Part} (h : ChangesOnly s t ps) (hsub : ps ⊆ qs) : ChangesOnly s t qs :=
  fun p hp => h p fun hmem => hp (hsub hmem)

theorem changesOnly_setWait (s : State) (m : Mode) (x : RegNo) : ChangesOnly s (s.setWait m x) [.runState] := by
  intro p hp
  have same := samePart_refl s p
  cases p with
  | runState => exact absurd List.mem_cons_self hp
  | _ => exact same

theorem Effect.changesOnly (h : Effect s i t) : ChangesOnly s t (writtenParts i) := by
  cases h with
  | nothing => exact fun p _ => samePart_refl s p
  | regs v hi => exact hi ▸ changesOnly_regs s v
  | pc a hi => exact hi ▸ changesOnly_setPc s a
  | index a hi => exact hi ▸ changesOnly_setI s a
  | clear => exact changesOnly_setFb_emit s _ _
  | pop | push => exact (changesOnly_setPc_stack s _ _ _).mono (List.subset_append_left _ [Part.runState])
  | underflow | overflow =>
    exact (changesOnly_raise s _ _ _).mono (List.subset_append_right [Part.pc, Part.stack] _)
  | draw => exact changesOnly_setV_drawRows s _ _ _ _
  | wait => exact changesOnly_setWait s _ _
  | delay => exact changesOnly_setDT s _
  | sound => exact changesOnly_setST s _
  | digits => exact changesOnly_memory s _
  | block => exact changesOnly_storeBlock s _

/-- Settles O55: the frame of each effect. -/
theorem instructionsChangeOnlyTheirParts : Obligations.InstructionsChangeOnlyTheirParts := fun _ _ _ h =>
  (effect_of_exec h).changesOnly

theorem exec_samePart {p : Part} (h : exec i s = .next t) (hp : p ∉ writtenParts i) : SamePart s t p :=
  instructionsChangeOnlyTheirParts i s t h p hp

/-- What only the loop and the environment write is written by no instruction. -/
theorem surroundings_notMem_writtenParts (i : Instr) : .surroundings ∉ writtenParts i := by
  cases i <;> simp [writtenParts]

/-- A draw writes no register but VF (R151). -/
theorem State.setV_drawRows_getV_of_ne (s : State) (x0 y0 : Byte) (n : BitVec 4) {q : RegNo} (hq : q ≠ vf) (b : Byte) :
    ((s.setV vf b).drawRows x0 y0 n.toNat).getV q = s.getV q := by
  rw [(s.setV vf b).drawRows_getV_of_unlit x0 y0 (spriteRows_le_screen n) (absurd · hq), State.setV_getV, if_neg hq]

/-- Settles O56: an instruction either writes no register at all, or one, or VF and one, or a block of them. -/
theorem instructionsWriteOnlyTheirRegisters : Obligations.InstructionsWriteOnlyTheirRegisters := fun i s t r h hr => by
  cases i with
  | ldImm x | addImm x | ldReg x | orReg x | andReg x | xorReg x | rnd x | ldVxDT x =>
    cases h
    rw [State.setV_getV, if_neg (of_decide_eq_false hr)]
  | addReg x | subReg x | shr x | subnReg x | shl x =>
    cases h
    obtain ⟨hx, hvf⟩ := Bool.or_eq_false_iff.mp hr
    rw [State.flagThenResult_getV, if_neg (of_decide_eq_false hx), if_neg (of_decide_eq_false hvf)]
  | drw x y n =>
    cases h
    exact s.setV_drawRows_getV_of_ne _ _ n (of_decide_eq_false hr) 0x00
  | loadRegs x =>
    cases h
    have hbeyond : ¬ r.toNat < x.toNat + 1 := fun hlt => of_decide_eq_false hr (Nat.le_of_lt_succ hlt)
    rw [s.loadBlock_getV _ r x.isLt, if_neg hbeyond]
  | sys | cls | ret | jp | call | seImm | sneImm | seReg | sneReg | ldI | jpV0 | skp | sknp | ldVxK | ldDTVx | ldSTVx
  | addI | ldF | ldB | storeRegs => exact exec_samePart (p := .regs) h (by simp [writtenParts]) r

end Sys2Proof.Machine
end

section
/-!
PROOFS. Instructions that undo one another (R32, R33, R153, 95_test_vectors.md S8): RET a CALL, a second draw the first,
a block load a block store.
-/

namespace Sys2Proof.Machine

/-- Settles O35: the slot that RET pops is the one CALL pushed to; the entries below it are those of before the CALL. -/
theorem retUndoesCall : Obligations.RetUndoesCall := fun nnn s t u hsp hcall husp hustack => by
  cases (exec_call_of_lt nnn hsp).symm.trans hcall
  simp only [State.setPc_sp, State.setPc_stack] at husp hustack
  have hheld : u.sp.toNat = s.sp.toNat + 1 := by rw [husp, sp_succ_toNat hsp]
  refine ⟨_, exec_ret_of_held (by omega) (by omega), ?_, ?_, fun k hk => ?_⟩
  · simp [hheld, hustack]
  · simp [husp]
  · simp [hustack, hk.ne']

/-- What a sprite covers depends on I and on the bytes it reads from there. -/
theorem spriteCovers_congr {s u : State} (hi : u.i = s.i) (hmem : ∀ a, u.memRead a = s.memRead a) (x0 y0 : Byte)
    (n : Nat) (cx : BitVec 6) (cy : BitVec 5) : SpriteCovers u x0 y0 n cx cy ↔ SpriteCovers s x0 y0 n cx cy := by
  simp only [SpriteCovers, hi, hmem]

theorem State.memRead_congr {s u : State} (hcfg : u.cfg = s.cfg) (hmem : u.mem = s.mem) (a : Nat) :
    u.memRead a = s.memRead a := by
  rw [State.memRead, State.memRead, hcfg, hmem]

/-- Settles O46: the second draw covers the cells of the first and inverts them again; those lit then are those clear
before. -/
theorem secondDrawRestoresTheScreen : Obligations.SecondDrawRestoresTheScreen := by
  intro x y x' y' n s t u v hfirst hfb hcfg hmem hi hx hy hsecond
  obtain ⟨_, ht, covered1, uncovered1, _, _, _, _, frame1⟩ := drawInvertsTheSpritesCells x y n s
  cases ht.symm.trans hfirst
  obtain ⟨_, hv, covered2, uncovered2, collision, noCollision, _, _, _⟩ := drawInvertsTheSpritesCells x' y' n u
  cases hv.symm.trans hsecond
  have hbytes (a : Nat) : u.memRead a = s.memRead a :=
    (State.memRead_congr hcfg hmem a).trans (frame1 .memory (by decide) a)
  have hindex : u.i = s.i := hi.trans (frame1 .index (by decide))
  have hcovers := spriteCovers_congr hindex hbytes (s.getV x) (s.getV y) n.toNat
  simp only [hx, hy, hcovers, hfb] at covered2 uncovered2 collision noCollision
  constructor
  · refine fb_ext fun cx cy => ?_
    by_cases hcov : SpriteCovers s (s.getV x) (s.getV y) n.toNat cx cy
    · rw [covered2 cx cy hcov, covered1 cx cy hcov, Bool.not_not]
    · rw [uncovered2 cx cy hcov, uncovered1 cx cy hcov]
  · constructor
    · intro hvf
      by_contra hnone
      have hlit : ∀ cx cy, SpriteCovers s (s.getV x) (s.getV y) n.toNat cx cy → fbGet t.fb cx cy = false := by
        intro cx cy hcov
        rw [covered1 cx cy hcov, Bool.not_eq_false']
        exact Bool.of_not_eq_false fun hclear => hnone ⟨cx, cy, hcov, hclear⟩
      exact absurd ((noCollision hlit).symm.trans hvf) (by decide)
    · rintro ⟨cx, cy, hcov, hclear⟩
      exact collision ⟨cx, cy, hcov, by rw [covered1 cx cy hcov, hclear, Bool.not_false]⟩

/-- Settles O54: each loaded byte lies where the store put the register, and neither block writes I. -/
theorem blockRoundTrip : Obligations.BlockRoundTrip := by
  intro x s t u v hstore hmem hcfg hi hload
  obtain ⟨_, ht, stored, _, frame1⟩ := blockStore x s
  cases ht.symm.trans hstore
  obtain ⟨_, hv, loaded, frame2⟩ := blockLoad x u
  cases hv.symm.trans hload
  have hindex : u.i = s.i := hi.trans (frame1 .index (by decide))
  refine ⟨fun r hr => ?_, (frame2 .index (by decide)).trans hindex⟩
  rw [loaded r, if_pos hr, State.memRead_congr hcfg hmem, hindex, stored r hr]

end Sys2Proof.Machine
end

section
/-!
PROOFS. Noninterference (R37, R210): an instruction that reads neither the random byte nor the key latch does the same
whatever stands there.
-/

namespace Sys2Proof.Machine

/-- Other values on the random byte and in the key latch. -/
def State.mapLatches (f : Byte → Byte) (g : BitVec 16 → BitVec 16) (s : State) : State :=
  { s with rnd := f s.rnd, keys := g s.keys }

variable (f : Byte → Byte) (g : BitVec 16 → BitVec 16) (s : State)

theorem State.togglePixel_mapLatches (p : BitVec 6 × BitVec 5) :
    (s.mapLatches f g).togglePixel p = (s.togglePixel p).mapLatches f g := by
  rw [State.togglePixel, State.togglePixel, apply_ite (State.mapLatches f g)]
  rfl

theorem foldl_togglePixel_mapLatches (l : List (BitVec 6 × BitVec 5)) :
    l.foldl State.togglePixel (s.mapLatches f g) = (l.foldl State.togglePixel s).mapLatches f g := by
  induction l generalizing s with
  | nil => rfl
  | cons p l ih => rw [List.foldl_cons, State.togglePixel_mapLatches, ih, List.foldl_cons]

theorem State.drawRows_mapLatches (x0 y0 : Byte) (n : Nat) :
    (s.mapLatches f g).drawRows x0 y0 n = (s.drawRows x0 y0 n).mapLatches f g := by
  rw [State.drawRows_eq, State.drawRows_eq, ← foldl_togglePixel_mapLatches]
  rfl

theorem State.storeBlock_mapLatches (n : Nat) :
    (s.mapLatches f g).storeBlock n = (s.storeBlock n).mapLatches f g := by
  induction n with
  | zero => rfl
  | succ n ih => rw [State.storeBlock, ih]; rfl

theorem State.loadBlock_mapLatches (n : Nat) :
    (s.mapLatches f g).loadBlock n = (s.loadBlock n).mapLatches f g := by
  induction n with
  | zero => rfl
  | succ n ih => rw [State.loadBlock, ih]; rfl

theorem exec_ret_mapLatches :
    exec .ret (s.mapLatches f g) = mapNext (State.mapLatches f g) (exec .ret s) := by
  obtain h0 | h1 := Nat.eq_zero_or_pos s.sp.toNat
  · rw [exec_ret_of_empty h0, exec_ret_of_empty (s := s.mapLatches f g) h0]; rfl
  · obtain h16 | hbeyond := le_or_gt s.sp.toNat 16
    · rw [exec_ret_of_held h1 h16, exec_ret_of_held (s := s.mapLatches f g) h1 h16]; rfl
    · rw [exec_ret_of_beyond hbeyond, exec_ret_of_beyond (s := s.mapLatches f g) hbeyond]; rfl

theorem exec_call_mapLatches (nnn : BitVec 12) :
    exec (.call nnn) (s.mapLatches f g) = mapNext (State.mapLatches f g) (exec (.call nnn) s) := by
  obtain hlt | hfull | hbeyond := Nat.lt_trichotomy s.sp.toNat 16
  · rw [exec_call_of_lt nnn hlt, exec_call_of_lt (s := s.mapLatches f g) nnn hlt]; rfl
  · rw [exec_call_of_full nnn hfull, exec_call_of_full (s := s.mapLatches f g) nnn hfull]; rfl
  · rw [exec_call_of_beyond nnn hbeyond, exec_call_of_beyond (s := s.mapLatches f g) nnn hbeyond]; rfl

/-- An instruction commutes with a change of the latches that leaves alone the one it reads. -/
theorem exec_mapLatches (i : Instr) (hrnd : readsRnd i = true → f = id) (hkeys : readsKeys i = true → g = id) :
    exec i (s.mapLatches f g) = mapNext (State.mapLatches f g) (exec i s) := by
  cases i with
  | rnd => cases hrnd rfl; rfl
  | skp | sknp => cases hkeys rfl; rfl
  | ret => exact exec_ret_mapLatches f g s
  | call nnn => exact exec_call_mapLatches f g s nnn
  | drw x y n => exact congrArg Host.Outcome.next ((s.setV vf 0x00).drawRows_mapLatches f g _ _ _)
  | storeRegs => exact congrArg Host.Outcome.next (s.storeBlock_mapLatches f g _)
  | loadRegs => exact congrArg Host.Outcome.next (s.loadBlock_mapLatches f g _)
  | sys | cls | jp | seImm | sneImm | seReg | ldImm | addImm | ldReg | orReg | andReg | xorReg | addReg | subReg | shr
  | subnReg | shl | sneReg | ldI | jpV0 | ldVxDT | ldVxK | ldDTVx | ldSTVx | addI | ldF | ldB => rfl

/-- Settles O58: `exec_mapLatches`, with one of the two latches left alone. -/
theorem randomAndKeysReachOnlyTheirReaders : Obligations.RandomAndKeysReachOnlyTheirReaders := fun i s b k =>
  ⟨fun hi => exec_mapLatches (fun _ => b) id s i (fun h => (nomatch hi.symm.trans h)) fun _ => rfl,
   fun hi => exec_mapLatches id (fun _ => k) s i (fun _ => rfl) fun h => (nomatch hi.symm.trans h)⟩

end Sys2Proof.Machine
end

section
/-!
PROOFS. The iterations of the loop (R210 to R219): the four ways one answers, its surroundings, its MODE transitions, and
what an iteration that ends the run has written.
-/

namespace Sys2Proof.Machine

variable {s t : State}

/-! ### The ways an iteration answers -/

/-- A fault raised behind the fetch advance has the address of its word (R244). -/
theorem State.advance_raiseInstr (s : State) (c : Cause) (w : Word) :
    s.advance.raiseInstr c w = s.advance.raise c w s.pc :=
  congrArg (s.advance.raise c w) (BitVec.add_sub_cancel s.pc 2)

/-- An iteration outside HALT finds the display closed, or an illegal word, or executes an instruction, or waits. -/
theorem iteration_cases (hr : Released s) (hm : s.mode ≠ .halt) (h : step s = .next t) :
    (s.sample.closed = true ∧ t = s.sampled.raise .displayClosed 0x0000 s.pc) ∨
    (s.mode = .run ∧ (∃ r, decodeWord s.fetch = .error r) ∧
      t = s.sampled.advance.raise .illegalInstruction s.fetch s.pc) ∨
    (s.mode = .run ∧ ∃ i u, s.current = some i ∧ Effect s.sampled.advance i u ∧ t = u.afterInstr) ∨
    (s.mode = .waitKey ∧ s.sample.closed = false ∧ t = (s.sampled.receiveKey s.sample.kd).updateTimers) := by
  have ⟨hheld, hreset⟩ := hr
  obtain ⟨hx, _⟩ | ⟨hx, _⟩ | ⟨_, hx, _⟩ | ⟨_, _, hc, ht⟩ | ⟨hrun, hd, ht⟩ | ⟨hrun, i, u, hd, he, ht⟩ | ⟨hw, ht⟩ :=
    step_cases h
  · exact absurd hx (Bool.not_eq_true _ ▸ hreset)
  · exact absurd hx (Bool.not_eq_true _ ▸ hheld)
  · exact absurd hx hm
  · exact .inl ⟨hc, ht⟩
  · have ⟨_, hmode, _⟩ := hrun
    exact .inr (.inl ⟨hmode, hd, ht.trans (State.advance_raiseInstr _ _ _)⟩)
  · have ⟨_, hmode, _⟩ := hrun
    exact .inr (.inr (.inl ⟨hmode, i, u, State.current_of_running hrun hd, effect_of_exec he, ht⟩))
  · have ⟨_, hmode, hc⟩ := hw
    exact .inr (.inr (.inr ⟨hmode, hc, ht⟩))

/-- Where no instruction can fault the step answers. -/
theorem step_answers_of_exec (h : ∀ i, ∃ t, exec i s.sampled.advance = .next t) : ∃ t, step s = .next t := by
  cases hx : s.sample.reset with
  | true => exact ⟨_, step_of_reset hx⟩
  | false =>
    cases hh : s.held with
    | true => exact ⟨_, step_of_fall hh hx⟩
    | false =>
      have hr : Released s := ⟨hh, hx⟩
      by_cases hm : s.mode = .halt
      · exact ⟨_, step_of_halt hr hm⟩
      · cases hc : s.sample.closed with
        | true => exact ⟨_, step_of_closed hr hm hc⟩
        | false =>
          cases hk : s.mode with
          | halt => exact absurd hk hm
          | waitKey => exact ⟨_, step_of_waiting ⟨hr, hk, hc⟩⟩
          | run =>
            cases hd : decodeWord s.fetch with
            | error r => exact ⟨_, step_of_illegal ⟨hr, hk, hc⟩ hd⟩
            | ok i =>
              obtain ⟨u, hu⟩ := h i
              exact ⟨u.afterInstr, by rw [step_of_running ⟨hr, hk, hc⟩ hd, hu, finishIteration]⟩

/-- Settles O14: with SP at most 16 no instruction faults, and nothing else of a step can. -/
theorem stepAlwaysAnswersNext : Obligations.StepAlwaysAnswersNext := fun s hsp => by
  refine step_answers_of_exec fun i => ?_
  obtain ⟨u, hu, _⟩ | ⟨_, hbeyond, _⟩ := exec_effect_or_fault i s.sampled.advance
  · exact ⟨u, hu⟩
  · exact absurd hbeyond (Nat.not_lt.mpr hsp)

/-- Settles O7: the two bytes at PC are the fetched word, and step (f) is left out exactly after a halt. -/
theorem stepRunsTheDecodedInstruction : Obligations.StepRunsTheDecodedInstruction := fun s i hrun hd => by
  have hadvance : s.sampled.advance = s.sampled.setPc (s.pc + 2) := rfl
  rw [step_of_running hrun (decode_pair_ok_iff.mp hd), hadvance]
  cases exec i (s.sampled.setPc (s.pc + 2)) with
  | fault | refused => rfl
  | next u =>
    obtain ⟨hhalt, hu⟩ | ⟨hgo, hu⟩ := u.afterInstr_cases
    · simp only [finishIteration, hu, if_pos hhalt]
    · simp only [finishIteration, hu, if_neg hgo]

/-- Settles O8: the raise on the advanced PC, whose address is that PC less 2. -/
theorem illegalWordHalts : Obligations.IllegalWordHalts := fun s r hrun hd => by
  refine ⟨_, step_of_illegal hrun hd, ?_⟩
  rw [State.advance_raiseInstr]
  exact State.raised_raise _ _ _ _

theorem State.runMode_of_run (hm : s.mode = .run) (kd : Option KeyIndex) : s.runMode kd = s.dispatch s.fetch := by
  rw [State.runMode, hm]

/-- Settles O57: in RUN the dispatch is given the sampled state without the event. -/
theorem runDropsTheKeyEvent : Obligations.RunDropsTheKeyEvent := fun s e kd kd' hmode => by
  have hdispatch (e : Env) : (s.takeSample e).runMode e.kd = (s.takeSample e).dispatch (s.takeSample e).fetch :=
    State.runMode_of_run (s := s.takeSample e) hmode e.kd
  simp only [State.iterate, hmode, hdispatch]
  rfl

/-- Settles O49: FX0A is the write of MODE and WAITX; neither the advance nor the timer update touches either. -/
theorem keyWaitSuspends : Obligations.KeyWaitSuspends := fun x s => by
  refine ⟨⟨_, rfl, rfl, rfl, rfl, changesOnly_setWait s _ _⟩, fun hrun hcur => ?_⟩
  have hstep : step s = .next (s.sampled.advance.setWait .waitKey x).updateTimers :=
    step_of_running hrun (State.decodeWord_of_current hcur)
  exact ⟨_, hstep, rfl, rfl, fun _ => rfl, rfl⟩

/-! ### The surroundings of an iteration -/

/-- Step (f), or its absence, writes the timers and nothing else. -/
theorem State.afterInstr_frame (s : State) : s.afterInstr = { s with dt := s.afterInstr.dt, st := s.afterInstr.st } := by
  obtain ⟨_, h⟩ | ⟨_, h⟩ := s.afterInstr_cases
  · rw [h]
  · rw [h]; rfl

theorem State.afterInstr_mode (s : State) : s.afterInstr.mode = s.mode := by rw [State.afterInstr_frame]

theorem State.afterInstr_of_halt {s : State} (h : s.mode = .halt) : s.afterInstr = s :=
  (s.afterInstr_cases.resolve_right fun ⟨hgo, _⟩ => hgo h).2

/-- What the sampling wrote is what an iteration leaves of the surroundings. -/
theorem iteration_surroundings (hr : Released s) (hm : s.mode ≠ .halt) (h : step s = .next t) :
    SamePart s.sampled t .surroundings := by
  have same := samePart_refl s.sampled .surroundings
  obtain ⟨_, rfl⟩ | ⟨_, _, rfl⟩ | ⟨_, i, u, _, heffect, rfl⟩ | ⟨_, _, rfl⟩ := iteration_cases hr hm h
  · exact same
  · exact same
  · rw [State.afterInstr_frame]
    exact heffect.changesOnly .surroundings (surroundings_notMem_writtenParts i)
  · rw [State.receiveKey_frame]
    exact same

/-- Settles O11: what the sampling leaves in the time values, in KEYS and in the count stays to the iteration's end. -/
theorem iterationIsPacedAndSamplesKeys : Obligations.IterationIsPacedAndSamplesKeys := fun s t hr hm h => by
  obtain ⟨hcfg, hkeys, hframe, htnow, _, _, _, hdraws⟩ := iteration_surroundings hr hm h
  refine ⟨htnow, ?_, hframe.trans htnow.symm, hkeys, hcfg, hdraws⟩
  rw [htnow]
  exact Nat.le_add_right _ _

/-! ### The run state of an iteration -/

/-- An instruction leaves the run state alone, or suspends the run, or raises. -/
theorem Effect.runState_cases {i : Instr} (h : Effect s i t) :
    SamePart s t .runState ∨
    (∃ x, i = .ldVxK x ∧ t = s.setWait .waitKey x) ∨
    (i = .ret ∧ s.sp = 0 ∧ t = s.raise .stackUnderflow 0x00EE (s.pc - 2)) ∨
    (∃ nnn, i = .call nnn ∧ s.sp = 16 ∧ t = s.raise .stackOverflow (wordNNN 0x2 nnn) (s.pc - 2)) := by
  have same := samePart_refl s .runState
  cases h with
  | wait x => exact .inr (.inl ⟨x, rfl, rfl⟩)
  | underflow h => exact .inr (.inr (.inl ⟨rfl, BitVec.eq_of_toNat_eq h, rfl⟩))
  | overflow nnn h => exact .inr (.inr (.inr ⟨nnn, rfl, BitVec.eq_of_toNat_eq h, rfl⟩))
  | draw => exact .inl (changesOnly_setV_drawRows s _ _ _ _ .runState (by decide))
  | block => exact .inl (changesOnly_storeBlock s _ .runState (by decide))
  | nothing | regs | pc | index | clear | pop | push | delay | sound | digits => exact .inl same

/-- A key-down event resumes the run (R218). -/
theorem State.receiveKey_mode (s : State) (kd : Option KeyIndex) :
    (s.receiveKey kd).mode = if kd = none then s.mode else .run := by
  cases kd with
  | none => rfl
  | some k => rfl

theorem run_to_waitKey (hr : Released s) (hm : s.mode = .run) (h : step s = .next t) (ht : t.mode = .waitKey) :
    ∃ x, s.current = some (.ldVxK x) := by
  obtain ⟨_, rfl⟩ | ⟨_, _, rfl⟩ | ⟨_, i, u, hcur, heffect, rfl⟩ | ⟨hw, _⟩ := iteration_cases hr (by simp [hm]) h
  · cases ht
  · cases ht
  · rw [State.afterInstr_mode] at ht
    obtain ⟨hmode, _⟩ | ⟨x, rfl, _⟩ | ⟨_, _, rfl⟩ | ⟨_, _, _, rfl⟩ := heffect.runState_cases
    · cases (hm.symm.trans hmode.symm).trans ht
    · exact ⟨x, hcur⟩
    · cases ht
    · cases ht
  · cases hm.symm.trans hw

theorem run_to_halt (hr : Released s) (hm : s.mode = .run) (h : step s = .next t) (ht : t.mode = .halt) :
    s.sample.closed = true ∨ (∃ r, decodeWord s.fetch = .error r) ∨ (s.current = some .ret ∧ s.sp = 0) ∨
      ∃ nnn, s.current = some (.call nnn) ∧ s.sp = 16 := by
  obtain ⟨hc, _⟩ | ⟨_, hd, _⟩ | ⟨_, i, u, hcur, heffect, rfl⟩ | ⟨hw, _⟩ := iteration_cases hr (by simp [hm]) h
  · exact .inl hc
  · exact .inr (.inl hd)
  · rw [State.afterInstr_mode] at ht
    obtain ⟨hmode, _⟩ | ⟨_, _, rfl⟩ | ⟨rfl, hsp, _⟩ | ⟨nnn, rfl, hsp, _⟩ := heffect.runState_cases
    · cases (hm.symm.trans hmode.symm).trans ht
    · cases ht
    · exact .inr (.inr (.inl ⟨hcur, hsp⟩))
    · exact .inr (.inr (.inr ⟨nnn, hcur, hsp⟩))
  · cases hm.symm.trans hw

/-- An iteration of a key wait ends the run on a closed display, or receives the event. -/
theorem waitKey_cases (hr : Released s) (hm : s.mode = .waitKey) (h : step s = .next t) :
    (s.sample.closed = true ∧ t.mode = .halt) ∨
    (s.sample.closed = false ∧ t.mode = if s.sample.kd = none then .waitKey else .run) := by
  obtain ⟨hc, rfl⟩ | ⟨hrun, _⟩ | ⟨hrun, _⟩ | ⟨_, hc, rfl⟩ := iteration_cases hr (by simp [hm]) h
  · exact .inl ⟨hc, rfl⟩
  · cases hm.symm.trans hrun
  · cases hm.symm.trans hrun
  · exact .inr ⟨hc, hm ▸ s.sampled.receiveKey_mode s.sample.kd⟩

theorem loadFails_iff (e : Env) : loadFails e = true ↔ e.loadFail = true ∨ 3584 < e.image.length := by
  rw [loadFails, Bool.or_eq_true, decide_eq_true_iff]

theorem State.release_mode (s : State) (e : Env) :
    (s.release e).mode = if e.loadFail = true ∨ 3584 < e.image.length then .halt else .run := by
  simp only [← loadFails_iff]
  obtain ⟨hfail, h⟩ | ⟨hok, h⟩ := s.release_cases e
  · rw [h, if_pos hfail]; rfl
  · rw [h, if_neg (Bool.not_eq_true _ ▸ hok)]; rfl

theorem State.release_held (s : State) (e : Env) : (s.release e).held = false := by
  obtain ⟨_, h⟩ | ⟨_, h⟩ := s.release_cases e <;> rw [h] <;> rfl

/-- `reset` stays released where nothing raises it. -/
theorem released_held (hr : Released s) (h : step s = .next t) : t.held = false := by
  have ⟨hheld, _⟩ := hr
  by_cases hm : s.mode = .halt
  · cases (step_of_halt hr hm).symm.trans h
    exact hheld
  · obtain ⟨_, _, _, _, _, hkept, _⟩ := iteration_surroundings hr hm h
    exact hkept.trans hheld

/-- Settles O12: the transitions into and out of reset, then those of an iteration, by the mode it starts from. -/
theorem modeTransitionsAreTheListed : Obligations.ModeTransitionsAreTheListed := fun s t h => by
  refine ⟨fun hreset => ?_, fun hheld hreset => ?_, fun hr => ⟨released_held hr h, fun hm => run_to_waitKey hr hm h,
    fun hm => run_to_halt hr hm h, fun hm ht => ?_, fun hm ht => ?_, fun hm => ?_⟩⟩
  · cases (step_of_reset hreset).symm.trans h
    exact ⟨rfl, rfl⟩
  · cases (step_of_fall hheld hreset).symm.trans h
    exact ⟨State.release_held _ _, State.release_mode _ _⟩
  · obtain ⟨_, hhalt⟩ | ⟨hc, hmode⟩ := waitKey_cases hr hm h
    · cases ht.symm.trans hhalt
    · refine ⟨hc, fun hnone => ?_⟩
      rw [if_pos hnone] at hmode
      cases ht.symm.trans hmode
  · obtain ⟨hc, _⟩ | ⟨_, hmode⟩ := waitKey_cases hr hm h
    · exact hc
    · split at hmode <;> cases ht.symm.trans hmode
  · cases (step_of_halt hr hm).symm.trans h
    exact hm

/-! ### The iteration that ends the run -/

/-- An iteration ends the run by raising a cause on the sampled state, PC apart. -/
theorem exists_raise_of_step_to_halt (hr : Released s) (hm : s.mode ≠ .halt) (h : step s = .next t)
    (ht : t.mode = .halt) : ∃ a c w pc0, t = (s.sampled.setPc a).raise c w pc0 := by
  obtain ⟨_, rfl⟩ | ⟨_, _, rfl⟩ | ⟨hrun, i, u, _, heffect, rfl⟩ | ⟨hw, hc, rfl⟩ := iteration_cases hr hm h
  · exact ⟨s.pc, _, _, _, rfl⟩
  · exact ⟨s.pc + 2, _, _, _, rfl⟩
  · rw [State.afterInstr_mode] at ht
    rw [State.afterInstr_of_halt ht]
    obtain ⟨hmode, _⟩ | ⟨_, _, rfl⟩ | ⟨_, _, rfl⟩ | ⟨_, _, _, rfl⟩ := heffect.runState_cases
    · cases (hrun.symm.trans hmode.symm).trans ht
    · cases ht
    · exact ⟨s.pc + 2, _, _, _, rfl⟩
    · exact ⟨s.pc + 2, _, _, _, rfl⟩
  · have hmode := (waitKey_cases hr hw h).resolve_left fun ⟨hclosed, _⟩ => (nomatch hc.symm.trans hclosed)
    obtain ⟨_, hmode⟩ := hmode
    split at hmode <;> cases ht.symm.trans hmode

theorem changesOnly_sampled_setPc_raise (s : State) (a : Word) (c : Cause) (w pc0 : Word) :
    ChangesOnly s ((s.sampled.setPc a).raise c w pc0) [.pc, .runState, .surroundings] := by
  intro p hp
  have same := samePart_refl s p
  cases p with
  | pc | runState | surroundings => exact absurd (by decide) hp
  | _ => exact same

/-- Settles O13: the sampling, the advance and the raise write no part but the three. -/
theorem haltingStepWritesNothingElse : Obligations.HaltingStepWritesNothingElse := fun s t hr hm h ht => by
  have hsilent : t.tone ≠ true := fun htone => by
    obtain ⟨_, hgo⟩ := t.tone_eq_true_iff.mp htone
    exact hgo ht
  refine ⟨?_, Bool.eq_false_iff.mpr hsilent, t.halted_eq_true_iff.mpr ht⟩
  obtain ⟨a, c, w, pc0, rfl⟩ := exists_raise_of_step_to_halt hr hm h ht
  exact changesOnly_sampled_setPc_raise s a c w pc0

end Sys2Proof.Machine
end

section
/-!
PROOFS. The invariants that memory, the stack pointer and the display have by themselves (R31, R47, R61): a step starts
them anew, leaves them alone, or changes them by the effect of one instruction.
-/

namespace Sys2Proof.Machine

variable {s t : State} {i : Instr}

/-- `t` has what only reset and instructions write as `s` has it: memory, SP, the screen and its events. -/
def SameStore (s t : State) : Prop :=
  t.cfg = s.cfg ∧ t.mem = s.mem ∧ t.sp = s.sp ∧ t.fb = s.fb ∧ t.events = s.events

theorem sameStore_refl (s : State) : SameStore s s := ⟨rfl, rfl, rfl, rfl, rfl⟩

theorem State.release_sameStore (s : State) (e : Env) : SameStore (s.resetValues e) (s.release e) := by
  obtain ⟨_, h⟩ | ⟨_, h⟩ := s.release_cases e
  · rw [h]; exact sameStore_refl _
  · rw [h]; exact sameStore_refl _

theorem step_store_cases (h : step s = .next t) :
    (∃ s₀ e, SameStore (State.resetValues s₀ e) t) ∨ SameStore s t ∨
      ∃ i u, Effect s.sampled.advance i u ∧ SameStore u t := by
  obtain ⟨_, rfl⟩ | ⟨_, _, rfl⟩ | ⟨_, _, rfl⟩ | ⟨_, _, _, rfl⟩ | ⟨_, _, rfl⟩ | ⟨_, i, u, _, he, rfl⟩ | ⟨_, rfl⟩ :=
    step_cases h
  · exact .inl ⟨s.countSample, s.sample, sameStore_refl _⟩
  · exact .inl ⟨s.countSample, s.sample, State.release_sameStore _ _⟩
  · exact .inr (.inl (sameStore_refl s))
  · exact .inr (.inl (sameStore_refl s))
  · exact .inr (.inl (sameStore_refl s))
  · refine .inr (.inr ⟨i, u, effect_of_exec he, ?_⟩)
    rw [State.afterInstr_frame]
    exact sameStore_refl u
  · rw [State.receiveKey_frame]
    exact .inr (.inl (sameStore_refl s))

/-- A property of memory, SP and the display that reset establishes and every instruction keeps is kept by every step. -/
theorem step_keeps {P : State → Prop} (hstore : ∀ {s t}, SameStore s t → P s → P t)
    (hreset : ∀ s e, P (State.resetValues s e)) (heffect : ∀ {s i t}, Effect s i t → P s → P t)
    (hs : P s) (h : step s = .next t) : P t := by
  obtain ⟨s₀, e, hsame⟩ | hsame | ⟨i, u, hu, hsame⟩ := step_store_cases h
  · exact hstore hsame (hreset s₀ e)
  · exact hstore hsame hs
  · exact hstore hsame (heffect hu (hstore (sameStore_refl s) hs))

/-! ### Memory -/

theorem MemoryCanonical.memWrite (h : MemoryCanonical s) (a : Nat) (b : Byte) : MemoryCanonical (s.memWrite a b) :=
  State.memWrite_wf a b h

theorem MemoryCanonical.storeBlock (h : MemoryCanonical s) (n : Nat) : MemoryCanonical (s.storeBlock n) := by
  induction n with
  | zero => exact h
  | succ n ih => exact ih.memWrite _ _

theorem Effect.memoryCanonical (h : Effect s i t) (hs : MemoryCanonical s) : MemoryCanonical t := by
  cases h with
  | digits x => exact ((hs.memWrite _ _).memWrite _ _).memWrite _ _
  | block x => exact hs.storeBlock _
  | draw => rw [State.drawRows_frame]; exact hs
  | nothing | regs | pc | index | clear | pop | underflow | push | overflow | wait | delay | sound => exact hs

theorem MemoryCanonical.of_sameStore (h : SameStore s t) (hs : MemoryCanonical s) : MemoryCanonical t := by
  obtain ⟨hcfg, hmem, _⟩ := h
  rwa [MemoryCanonical, hcfg, hmem]

/-- Settles O21: the loader and both stores write through `memoryWrite`, which keeps the form. -/
theorem stepKeepsMemoryCanonical : Obligations.StepKeepsMemoryCanonical := fun _ _ =>
  step_keeps .of_sameStore (fun s e => imageMemory_wf s.cfg e.image) Effect.memoryCanonical

/-! ### The stack pointer -/

theorem Effect.stackInRange (h : Effect s i t) (hs : StackInRange s) : StackInRange t := by
  cases h with
  | pop h1 h16 => exact (sp_pred_toNat h1).trans_le ((Nat.sub_le _ 1).trans h16)
  | push nnn hlt => exact (sp_succ_toNat hlt).trans_le hlt
  | block => rw [State.storeBlock_eq]; exact hs
  | draw => rw [State.drawRows_frame]; exact hs
  | nothing | regs | pc | index | clear | underflow | overflow | wait | delay | sound | digits => exact hs

theorem StackInRange.of_sameStore (h : SameStore s t) (hs : StackInRange s) : StackInRange t := by
  obtain ⟨_, _, hsp, _⟩ := h
  rwa [StackInRange, hsp]

/-- Settles O22: only a pop and a push move SP, and a push has a slot below 16. -/
theorem stepKeepsStackInRange : Obligations.StepKeepsStackInRange := fun _ _ =>
  step_keeps .of_sameStore (fun _ _ => Nat.zero_le _) Effect.stackInRange

/-! ### The display events -/

/-- An event that says what happened to the screen keeps the replay right. -/
theorem EventsReproduceDisplay.emit (h : EventsReproduceDisplay s) (e : Event) :
    EventsReproduceDisplay ((s.setFb (fbApply s.fb e)).emit e) := by
  change (s.events ++ [e]).foldl fbApply fbClear = fbApply s.fb e
  rw [List.foldl_concat, h]

theorem EventsReproduceDisplay.togglePixel (h : EventsReproduceDisplay s) (p : BitVec 6 × BitVec 5) :
    EventsReproduceDisplay (s.togglePixel p) := by
  unfold State.togglePixel
  split
  · exact h.emit (.pixelClear p.1 p.2)
  · exact h.emit (.pixelSet p.1 p.2)

theorem EventsReproduceDisplay.foldl_togglePixel (h : EventsReproduceDisplay s) (l : List (BitVec 6 × BitVec 5)) :
    EventsReproduceDisplay (l.foldl State.togglePixel s) := by
  induction l generalizing s with
  | nil => exact h
  | cons p l ih => exact ih (h.togglePixel p)

theorem Effect.eventsReproduceDisplay (h : Effect s i t) (hs : EventsReproduceDisplay s) :
    EventsReproduceDisplay t := by
  cases h with
  | clear => exact hs.emit .clearAll
  | draw x y n =>
    rw [State.drawRows_eq]
    exact EventsReproduceDisplay.foldl_togglePixel (s := s.setV vf 0x00) hs _
  | block => rw [State.storeBlock_eq]; exact hs
  | nothing | regs | pc | index | pop | underflow | push | overflow | wait | delay | sound | digits => exact hs

theorem EventsReproduceDisplay.of_sameStore (h : SameStore s t) (hs : EventsReproduceDisplay s) :
    EventsReproduceDisplay t := by
  obtain ⟨_, _, _, hfb, hevents⟩ := h
  rwa [EventsReproduceDisplay, hfb, hevents]

/-- Settles O25: every write of the screen is followed by the event that says what it did. -/
theorem stepKeepsEventsReproducingDisplay : Obligations.StepKeepsEventsReproducingDisplay := fun _ _ =>
  step_keeps .of_sameStore (fun _ _ => rfl) Effect.eventsReproduceDisplay

end Sys2Proof.Machine
end

section
/-!
PROOFS. The invariants of the clocks and of the halt record (R39, R40, R240), which the loop itself writes, and all the
invariants at reset (R52).
-/

namespace Sys2Proof.Machine

variable {s t : State} {i : Instr}

/-! ### The clocks -/

theorem ClocksAgree.takeSample (h : ClocksAgree s) (e : Env) : ClocksAgree (s.takeSample e) := by
  obtain ⟨_, hdt, hst⟩ := h
  have hlater : s.frameStart ≤ s.frameStart + s.cfg.t60 + e.late := by omega
  exact ⟨rfl, hdt.trans hlater, hst.trans hlater⟩

theorem ClocksAgree.updateTimers (h : ClocksAgree s) : ClocksAgree s.updateTimers := by
  obtain ⟨htnow, hdt, hst⟩ := h
  refine ⟨htnow, ?_, ?_⟩
  · exact htnow ▸ timerUpdate_base_le (htnow ▸ hdt)
  · exact htnow ▸ timerUpdate_base_le (htnow ▸ hst)

theorem ClocksAgree.afterInstr (h : ClocksAgree s) : ClocksAgree s.afterInstr := by
  obtain ⟨_, hs⟩ | ⟨_, hs⟩ := s.afterInstr_cases
  · rwa [hs]
  · rw [hs]; exact h.updateTimers

/-- A timer is set to the instant of its iteration, so that its baseline is not ahead (R191). -/
theorem Effect.clocksAgree (h : Effect s i t) (hs : ClocksAgree s) : ClocksAgree t := by
  have ⟨htnow, hdt, hst⟩ := hs
  cases h with
  | delay => exact ⟨htnow, htnow.le, hst⟩
  | sound => exact ⟨htnow, hdt, htnow.le⟩
  | block => rw [State.storeBlock_eq]; exact hs
  | draw => rw [State.drawRows_frame]; exact hs
  | nothing | regs | pc | index | clear | pop | underflow | push | overflow | wait | digits => exact hs

theorem clocksAgree_resetValues (s : State) (e : Env) : ClocksAgree (s.resetValues e) :=
  ⟨rfl, Nat.le_refl _, Nat.le_refl _⟩

/-- Settles O23: reset puts one instant everywhere; the sampling moves the clocks on, past the baselines; an instruction
and step (f) put at most the iteration's own instant into a baseline. -/
theorem stepKeepsClocks : Obligations.StepKeepsClocks := by
  intro s t hs h
  have hsampled : ClocksAgree s.sampled := ClocksAgree.takeSample hs s.sample
  obtain ⟨_, rfl⟩ | ⟨_, _, rfl⟩ | ⟨_, _, rfl⟩ | ⟨_, _, _, rfl⟩ | ⟨_, _, rfl⟩ | ⟨_, i, u, _, he, rfl⟩ | ⟨_, rfl⟩ :=
    step_cases h
  · exact clocksAgree_resetValues s s.sample
  · obtain ⟨_, hrel⟩ | ⟨_, hrel⟩ := s.countSample.release_cases s.sample
    · rw [hrel]; exact clocksAgree_resetValues s s.sample
    · rw [hrel]; exact clocksAgree_resetValues s s.sample
  · exact hs
  · exact hsampled
  · exact hsampled
  · exact ((effect_of_exec he).clocksAgree hsampled).afterInstr
  · rw [State.receiveKey_frame]
    exact ClocksAgree.updateTimers hsampled

/-! ### The halt record -/

/-- The halt record of a core that is not halted (R39, R52). -/
def emptyRecord : HaltRecord := { cause := .none, word := 0x0000, pc := 0x0000 }

/-- While the core is not halted, agreement is emptiness: every other cause comes with MODE = HALT. -/
theorem haltRecordAgrees_iff_of_ne_halt (hm : s.mode ≠ .halt) : HaltRecordAgrees s ↔ s.halt = emptyRecord := by
  constructor
  · intro h
    unfold HaltRecordAgrees at h
    split at h
    case h_1 hcause =>
      obtain ⟨_, hword, hpc⟩ := h
      exact congr (congr (congrArg HaltRecord.mk hcause) hword) hpc
    all_goals
      obtain ⟨hhalt, _⟩ := h
      exact absurd hhalt hm
  · intro h
    rw [HaltRecordAgrees, h]
    exact ⟨hm, rfl, rfl⟩

/-- What an instruction leaves of an empty record agrees with its cause, where it raises one. -/
theorem Effect.haltRecordAgrees (h : Effect s i t) (hm : s.mode ≠ .halt) (hs : s.halt = emptyRecord) :
    HaltRecordAgrees t := by
  have hbehind : s.pc = s.pc - 2 + 2 := (BitVec.sub_add_cancel s.pc 2).symm
  obtain ⟨hmode, _, hrecord⟩ | ⟨x, _, rfl⟩ | ⟨_, hsp, rfl⟩ | ⟨nnn, _, hsp, rfl⟩ := h.runState_cases
  · exact (haltRecordAgrees_iff_of_ne_halt (hmode ▸ hm)).mpr (hrecord.trans hs)
  · exact (haltRecordAgrees_iff_of_ne_halt (s := s.setWait .waitKey x) nofun).mpr hs
  · exact ⟨rfl, rfl, hbehind, hsp⟩
  · exact ⟨rfl, fieldFamily_wordNNN _ _, hbehind, hsp⟩

theorem haltRecordAgrees_release (s : State) (e : Env) : HaltRecordAgrees (s.release e) := by
  obtain ⟨_, h⟩ | ⟨_, h⟩ := s.release_cases e
  · rw [h]; exact ⟨rfl, rfl, rfl, rfl⟩
  · rw [h]; exact ⟨nofun, rfl, rfl⟩

theorem iteration_haltRecordAgrees (hr : Released s) (hm : s.mode ≠ .halt) (h : step s = .next t)
    (hs : s.halt = emptyRecord) : HaltRecordAgrees t := by
  obtain ⟨_, rfl⟩ | ⟨_, hd, rfl⟩ | ⟨_, i, u, _, heffect, rfl⟩ | ⟨hw, _, rfl⟩ := iteration_cases hr hm h
  · exact ⟨rfl, rfl, rfl⟩
  · exact ⟨rfl, hd, rfl⟩
  · rw [State.afterInstr_frame]
    exact heffect.haltRecordAgrees hm hs
  · have hgo : (s.sampled.receiveKey s.sample.kd).updateTimers.mode ≠ .halt := by
      change (s.sampled.receiveKey s.sample.kd).mode ≠ .halt
      rw [State.receiveKey_mode]
      split
      · exact hm
      · exact nofun
    refine (haltRecordAgrees_iff_of_ne_halt hgo).mpr ?_
    rw [State.receiveKey_frame]
    exact hs

/-- Settles O24: reset empties the record or raises LoadFailure, HALT keeps it, and an iteration starts from an empty
one. -/
theorem stepKeepsHaltRecord : Obligations.StepKeepsHaltRecord := by
  intro s t hs h
  cases hx : s.sample.reset with
  | true =>
    cases (step_of_reset hx).symm.trans h
    exact ⟨nofun, rfl, rfl⟩
  | false =>
    cases hh : s.held with
    | true =>
      cases (step_of_fall hh hx).symm.trans h
      exact haltRecordAgrees_release _ _
    | false =>
      by_cases hm : s.mode = .halt
      · cases (step_of_halt ⟨hh, hx⟩ hm).symm.trans h
        exact hs
      · exact iteration_haltRecordAgrees ⟨hh, hx⟩ hm h ((haltRecordAgrees_iff_of_ne_halt hm).mp hs)

/-- Settles O19: memory and the events are empty, every time value is 0, and so is SP. -/
theorem resetMeetsTheInvariants : Obligations.ResetMeetsTheInvariants :=
  ⟨⟨rfl, Nat.zero_le _, ⟨rfl, Nat.le_refl _, Nat.le_refl _⟩, ⟨nofun, rfl, rfl⟩, rfl⟩, rfl, rfl⟩

end Sys2Proof.Machine
end

section
/-!
PROOFS. Reset (R52, R270 to R275): the values it leaves, the memory it loads, and the codes of MODE and HALT_CAUSE.
-/

namespace Sys2Proof.Machine

theorem atReset_resetValues (s : State) (e : Env) : AtReset (s.resetValues e) := by
  refine ⟨State.resetValues_getV s e, rfl, rfl, rfl, fun k => ?_, rfl, rfl, fbGet_fbClear, rfl, rfl, rfl, rfl, rfl, rfl⟩
  exact Vector.getElem_replicate k.isLt

/-- Settles O16: the held core is the reset values. -/
theorem resetHoldsTheCoreAtTheTable : Obligations.ResetHoldsTheCoreAtTheTable := fun s hreset =>
  ⟨_, step_of_reset hreset, rfl, atReset_resetValues s.countSample s.sample, rfl, rfl, rfl, rfl,
    Nat.le_add_right s.tnow s.sample.late, rfl⟩

/-- Settles O17: the fall leaves the reset values, or raises LoadFailure on them, as the load went. -/
theorem resetPulseLeavesTheTable : Obligations.ResetPulseLeavesTheTable := by
  intro s hheld hreset
  refine ⟨_, step_of_fall hheld hreset, ?_⟩
  obtain ⟨hfail, h⟩ | ⟨hok, h⟩ := s.countSample.release_cases s.sample
  · have hfailed := (loadFails_iff s.sample).mp hfail
    rw [h]
    refine ⟨rfl, atReset_resetValues s.countSample s.sample, rfl, rfl, fun hload hfits => ?_, fun _ => ⟨rfl, rfl⟩⟩
    obtain hload' | hlong := hfailed
    · cases hload.symm.trans hload'
    · exact absurd hfits (Nat.not_le.mpr hlong)
  · have hloaded : ¬ (s.sample.loadFail = true ∨ 3584 < s.sample.image.length) :=
      mt (loadFails_iff s.sample).mpr (Bool.not_eq_true _ ▸ hok)
    rw [h]
    exact ⟨rfl, atReset_resetValues s.countSample s.sample, rfl, rfl, fun _ _ => ⟨rfl, rfl⟩, fun hfailed =>
      absurd hfailed hloaded⟩

/-- Settles O20: each code is a number, and no constructor has another. -/
theorem modesAndCausesHaveTheirCodes : Obligations.ModesAndCausesHaveTheirCodes := by
  refine ⟨⟨rfl, rfl, rfl, fun m => ?_⟩, rfl, rfl, rfl, rfl, rfl, rfl, fun c => ?_⟩
  · cases m <;> decide
  · cases c <;> decide

/-! ### The loaded memory -/

theorem initialByte_eq_getD (c : Config) (a : Nat) :
    initialByte c a = if c.fontBase.toNat ≤ a then (c.font[a - c.fontBase.toNat]?).getD 0x00 else 0x00 := by
  unfold initialByte
  by_cases hbase : c.fontBase.toNat ≤ a
  · rw [if_pos hbase]
    by_cases hin : a - c.fontBase.toNat < 80
    · rw [dif_pos ⟨hbase, hin⟩, Vector.getElem?_eq_getElem hin, Option.getD_some]
    · rw [dif_neg fun h => hin h.2, Vector.getElem?_eq_none (Nat.not_lt.mp hin), Option.getD_none]
  · rw [dif_neg fun h => hbase h.1, if_neg hbase]

/-- Within the bounds of R5 the font ends below 0x200, where the program begins. -/
theorem initialByte_of_progBase_le {c : Config} (hwf : c.wf = true) {a : Nat} (ha : progBase ≤ a) :
    initialByte c a = 0x00 := by
  rw [Config.wf, Bool.and_eq_true, decide_eq_true_iff, decide_eq_true_iff] at hwf
  obtain ⟨_, hbase⟩ := hwf
  exact dif_neg (by simp only [progBase] at ha; omega)

/-- Memory as the loader leaves it (R273): the program from 0x200 on, and the font and 0x00 below it. -/
theorem memoryRead_imageMemory {c : Config} (hwf : c.wf = true) {rom : List Byte} (hfits : rom.length ≤ maxRom)
    (a : Nat) :
    memoryRead c (imageMemory c rom) a =
      if a < progBase then initialByte c a else (rom[a - progBase]?).getD 0x00 := by
  rw [imageMemory, if_neg (Nat.not_lt.mpr hfits), memoryRead_load _ _ _ _ _ (Nat.add_le_add_left hfits progBase)]
  by_cases hlow : a < progBase
  · rw [if_pos hlow, dif_neg fun h => Nat.not_le.mpr hlow h.1, memoryRead]
  · have ha : progBase ≤ a := Nat.not_lt.mp hlow
    rw [if_neg hlow]
    by_cases hin : a - progBase < rom.length
    · rw [dif_pos ⟨ha, hin⟩, List.getElem?_eq_getElem hin, Option.getD_some]
    · rw [dif_neg fun h => hin h.2, List.getElem?_eq_none (Nat.not_lt.mp hin), Option.getD_none, memoryRead,
        initialByte_of_progBase_le hwf ha]

/-- Held or released, the core has the memory of the image that the loader has written. -/
theorem step_of_reset_or_load {s : State}
    (h : s.sample.reset = true ∨ s.held = true ∧ s.sample.loadFail = false) :
    ∃ t, step s = .next t ∧ t.cfg = s.cfg ∧ t.mem = imageMemory s.cfg s.sample.image := by
  cases hreset : s.sample.reset with
  | true => exact ⟨_, step_of_reset hreset, rfl, rfl⟩
  | false =>
    obtain ⟨hheld, _⟩ := h.resolve_left (Bool.not_eq_true _ ▸ hreset)
    obtain ⟨hcfg, hmem, _⟩ := s.countSample.release_sameStore s.sample
    exact ⟨_, step_of_fall hheld hreset, hcfg, hmem⟩

/-- Settles O18: the memory of the image, read through the port at an address that it does not reduce. -/
theorem resetPulseLoadsTheImage : Obligations.ResetPulseLoadsTheImage := by
  intro s h hwf hfits
  obtain ⟨t, hstep, hcfg, hmem⟩ := step_of_reset_or_load h
  refine ⟨t, hstep, fun a ha => ?_⟩
  rw [State.memRead, effectiveAddress, Nat.mod_eq_of_lt ha, hcfg, hmem, memoryRead_imageMemory hwf hfits,
    initialByte_eq_getD]

/-- Settles O6: the fetch as a number, at reduced addresses; the two stored bytes do not overlap. -/
theorem fetchSeesStores : Obligations.FetchSeesStores := fun s hi lo => by
  constructor
  · rw [State.fetch_toNat, State.memRead_mod]
  · have hne : s.pc.toNat % 4096 ≠ (s.pc.toNat + 1) % 4096 := by omega
    rw [State.fetch_toNat]
    simp only [State.memWrite_pc]
    rw [State.memWrite_memRead_of_ne _ _ hne, State.memWrite_memRead_same, State.memWrite_memRead_same]

end Sys2Proof.Machine
end

section
/-!
PROOFS. The timers over time (R193, R195): the rate at which one timer falls, and what an iteration does to both.
-/

namespace Sys2Proof.Machine

/-! ### One timer -/

/-- `m'` comes from `m` by falling `k` counts, each over at least T60 ticks. -/
def FallsInTime (t60 : Nat) (m m' : Timer) : Prop :=
  ∃ k, m'.val.toNat + k = m.val.toNat ∧ m.base + k * t60 ≤ m'.base

theorem FallsInTime.refl (t60 : Nat) (m : Timer) : FallsInTime t60 m m := ⟨0, rfl, by simp⟩

theorem FallsInTime.trans {t60 : Nat} {m₁ m₂ m₃ : Timer} (h₁ : FallsInTime t60 m₁ m₂) (h₂ : FallsInTime t60 m₂ m₃) :
    FallsInTime t60 m₁ m₃ := by
  obtain ⟨k, hval, hbase⟩ := h₁
  obtain ⟨l, hval', hbase'⟩ := h₂
  refine ⟨l + k, by omega, ?_⟩
  rw [Nat.add_mul]
  omega

theorem fallsInTime_timerUpdate (t60 t : Nat) (m : Timer) : FallsInTime t60 m (timerUpdate t60 t m) := by
  by_cases hv : m.val = 0
  · rw [timerUpdate_idle (.inl hv)]
    exact .refl t60 m
  · obtain hearly | hdue := Nat.lt_or_ge t (m.base + t60)
    · rw [timerUpdate_idle (.inr hearly)]
      exact .refl t60 m
    · rw [timerUpdate_fires hv hdue]
      exact ⟨1, val_pred_toNat_add_one hv, by simpa using hdue⟩

theorem fallsInTime_timerAfter (t60 : Nat) (m : Timer) (ts : List Nat) : FallsInTime t60 m (timerAfter t60 m ts) := by
  induction ts generalizing m with
  | nil => exact .refl t60 m
  | cons t ts ih => exact (fallsInTime_timerUpdate t60 t m).trans (ih _)

/-- Updates in order of time leave the baseline at most at the last of them. -/
theorem timerAfter_base_le (t60 : Nat) {m : Timer} {t0 : Nat} {ts : List Nat} (hchain : List.IsChain (· ≤ ·) (t0 :: ts))
    (hm : m.base ≤ t0) : (timerAfter t60 m ts).base ≤ ts.getLastD t0 := by
  induction ts generalizing m t0 with
  | nil => exact hm
  | cons t ts ih =>
    obtain ⟨hle, htail⟩ := List.isChain_cons_cons.mp hchain
    rw [List.getLastD_cons]
    exact ih htail (timerUpdate_base_le (hm.trans hle))

/-- Settles O27: `k` counts take `k * T60` ticks from the set on, and the baseline they lead to is no later than the last
update. -/
theorem timerNeverRunsFast : Obligations.TimerNeverRunsFast := by
  intro t60 v t0 ts hchain
  obtain ⟨k, hval, hbase⟩ := fallsInTime_timerAfter t60 (timerSet v t0) ts
  have hlast := timerAfter_base_le t60 hchain (m := timerSet v t0) (Nat.le_refl t0)
  simp only [timerSet] at hval hbase hlast ⊢
  have hk : v.toNat - (timerAfter t60 { val := v, base := t0 } ts).val.toNat = k := by omega
  rw [hk]
  omega

/-! ### Both timers in an iteration -/

variable {s t : State}

/-- A timer whose baseline is at least T60 back falls by one, down to 0 (R192, R195). -/
theorem timerUpdate_val_of_due {t60 t : Nat} {m : Timer} (h : m.base + t60 ≤ t) :
    (timerUpdate t60 t m).val.toNat = m.val.toNat - 1 := by
  by_cases hv : m.val = 0
  · rw [timerUpdate_idle (.inl hv), hv]; rfl
  · rw [timerUpdate_fires hv h, val_pred_toNat hv]

/-- A timer set at an instant is not updated at that instant (R195). -/
theorem timerUpdate_timerSet {t60 : Nat} (h : 0 < t60) (v : Byte) (t : Nat) :
    timerUpdate t60 t (timerSet v t) = timerSet v t :=
  timerUpdate_idle (.inr (Nat.lt_add_of_pos_right h))

theorem delayTimer_notMem_writtenParts {i : Instr} (h : ∀ x, i ≠ .ldDTVx x) : .delayTimer ∉ writtenParts i := by
  cases i <;> simp_all [writtenParts]

theorem soundTimer_notMem_writtenParts {i : Instr} (h : ∀ x, i ≠ .ldSTVx x) : .soundTimer ∉ writtenParts i := by
  cases i <;> simp_all [writtenParts]

/-- An iteration that does not end the run updates both timers at its instant, as its instruction, if it executes one,
has left them. -/
theorem iteration_timers (hr : Released s) (hm : s.mode ≠ .halt) (h : step s = .next t) (ht : t.mode ≠ .halt) :
    ∃ dt st,
      t.dt = timerUpdate s.cfg.t60 s.sampled.tnow dt ∧ t.st = timerUpdate s.cfg.t60 s.sampled.tnow st ∧
      (∀ x, s.current = some (.ldDTVx x) → dt = timerSet (s.getV x) s.sampled.tnow) ∧
      ((∀ x, s.current ≠ some (.ldDTVx x)) → dt = s.dt) ∧
      (∀ x, s.current = some (.ldSTVx x) → st = timerSet (s.getV x) s.sampled.tnow) ∧
      ((∀ x, s.current ≠ some (.ldSTVx x)) → st = s.st) := by
  obtain ⟨_, rfl⟩ | ⟨_, _, rfl⟩ | ⟨_, i, u, hcur, heffect, rfl⟩ | ⟨hw, _, rfl⟩ := iteration_cases hr hm h
  · exact absurd rfl ht
  · exact absurd rfl ht
  · rw [State.afterInstr_mode] at ht
    have hframe := heffect.changesOnly
    obtain ⟨hcfg, _, _, htnow, _⟩ := hframe .surroundings (surroundings_notMem_writtenParts i)
    rw [State.afterInstr_of_ne_halt ht, State.updateTimers_eq, hcfg, htnow, hcur]
    refine ⟨u.dt, u.st, rfl, rfl, fun x hx => ?_, fun hne => ?_, fun x hx => ?_, fun hne => ?_⟩
    · cases hx
      cases heffect with
      | delay => rfl
      | regs _ hi | pc _ hi | index _ hi => cases hi
    · exact hframe .delayTimer (delayTimer_notMem_writtenParts fun x hx => hne x (congrArg some hx))
    · cases hx
      cases heffect with
      | sound => rfl
      | regs _ hi | pc _ hi | index _ hi => cases hi
    · exact hframe .soundTimer (soundTimer_notMem_writtenParts fun x hx => hne x (congrArg some hx))
  · have hnone : s.current = none := by rw [State.current, hw]
    rw [State.receiveKey_frame, hnone]
    exact ⟨s.dt, s.st, rfl, rfl, nofun, fun _ => rfl, nofun, fun _ => rfl⟩

/-- Settles O28: the instant of an iteration lies at least T60 after every baseline, so that each timer's update is due,
unless the iteration has just set it. -/
theorem timersFallOncePerIteration : Obligations.TimersFallOncePerIteration := by
  intro s t ⟨_, hdt, hst⟩ hr hm h ht hwf
  rw [Config.wf, Bool.and_eq_true, decide_eq_true_iff] at hwf
  obtain ⟨hpos, _⟩ := hwf
  have due {b : Nat} (hb : b ≤ s.frameStart) : b + s.cfg.t60 ≤ s.sampled.tnow :=
    (Nat.add_le_add_right hb _).trans (Nat.le_add_right _ s.sample.late)
  obtain ⟨dt, st, hdt', hst', dtSet, dtKept, stSet, stKept⟩ := iteration_timers hr hm h ht
  rw [hdt', hst']
  refine ⟨fun x hx => ?_, fun hne => ?_, fun x hx => ?_, fun hne => ?_⟩
  · rw [dtSet x hx, timerUpdate_timerSet hpos]; rfl
  · rw [dtKept hne, timerUpdate_val_of_due (due hdt)]
  · rw [stSet x hx, timerUpdate_timerSet hpos]; rfl
  · rw [stKept hne, timerUpdate_val_of_due (due hst)]

end Sys2Proof.Machine
end
